-- ==== Sys2Proof/Word.lean ====
section
/-! DEFINITION. The word types of the block: characters of the serial stream, 16-bit positions and verbs, 32-bit
mailbox words and registers. -/

namespace Sys2Proof

/-- A character of the host stream, handled as its 8-bit code (20_memory.md R61; log 9, log 10). -/
abbrev Byte := BitVec 8

/-- A position in steps: POS_BITS = 16, arithmetic mod 2^16 (00_scope.md R7, 10_state.md R22; log 7). -/
abbrev Position := BitVec 16

/-- A verb word or a frame's value (30_encoding.md R92, R94). -/
abbrev Word16 := BitVec 16

/-- A channel word, a feedback word, or a 32-bit register (20_memory.md R63; 10_state.md R25, R27). -/
abbrev Word32 := BitVec 32

end Sys2Proof
end

