-- ==== Sys2Proof/Config.lean ====
section
/-! DEFINITION. The configuration record (00_scope.md R7), when it is well formed (R9), what the scheduler and the
environment decide for one step, and the constants no proof can see: the OPEN parameters and the free turns. -/

namespace Sys2Proof

/-- The TEMP constants of 00_scope.md R7 (41_host_commands.md R170), voltages in whole microvolts (log 7). -/
structure TempConstants where
  /-- 3.3, the ADC's full-scale voltage. -/
  vrefUv : Nat
  /-- 4096, the ADC's number of steps. -/
  adcSteps : Nat
  /-- 27, the temperature at the reference voltage, in degrees Celsius. -/
  refCelsius : Int
  /-- 0.706, the reference voltage. -/
  refUv : Nat
  /-- 0.001721, the voltage of one degree. -/
  slopeUv : Nat
deriving DecidableEq, Repr

/-- The parameters of a block instance, one field per row of the table of 00_scope.md R7. The ramp values have the width
of stepIntervalMs, and the recalibration and override values the width of a position (log 7). -/
structure Config where
  /-- POS_BITS; the position registers are 16 bits wide (10_state.md R22), and `meetsTable` asks for that value. -/
  posBits : Nat
  /-- BUF_CAP. -/
  bufCap : Nat
  /-- VALUE_VERBS, as VERB16 numbers. -/
  valueVerbs : List Word16
  /-- PAYLOAD_DIGITS. -/
  payloadDigits : Nat
  /-- RAMP_MAX_MS. -/
  rampMaxMs : Word32
  /-- RAMP_FLOOR_MS. -/
  rampFloorMs : Word32
  /-- RAMP_STEP_MS. -/
  rampStepMs : Word32
  /-- BATCH_SIZE. -/
  batchSize : Nat
  /-- COOLDOWN_MS. -/
  cooldownMs : Nat
  /-- RECAL_POSITION. -/
  recalPosition : Position
  /-- RECAL_TARGET. -/
  recalTarget : Position
  /-- OVERRIDE_STEP. -/
  overrideStep : Position
  /-- SETTLE_MS. -/
  settleMs : Nat
  /-- C0_SLEEP_MS: timing only, read by no step (60_exceptions.md R412; log 19). -/
  c0SleepMs : Nat
  /-- CHAN_POLL_TIMEOUT_US: timing only (log 19). -/
  chanPollTimeoutUs : Nat
  /-- NEXTCHAR_TIMEOUT_US: timing only (log 19). -/
  nextCharTimeoutUs : Nat
  /-- SEND_RETRY_LIMIT. -/
  sendRetryLimit : Nat
  /-- SEND_BACKOFF_US: timing only (log 19). -/
  sendBackoffUs : Nat
  /-- EXPOSURE_MS. -/
  exposureMs : Nat
  /-- PAUSE_MS. -/
  pauseMs : Nat
  /-- IR_BURSTS. -/
  irBursts : Nat
  /-- IR_PULSES. -/
  irPulses : Nat
  /-- IR_PULSE_US. -/
  irPulseUs : Nat
  /-- IR_GAP_US. -/
  irGapUs : Nat
  /-- HAS_INTERVALOMETER. -/
  hasIntervalometer : Bool
  /-- FW_VERSION_TEXT, as character codes. -/
  fwVersionText : List Byte
  /-- ADC_BITS. -/
  adcBits : Nat
  /-- TEMP_ADC_CHANNEL. -/
  tempAdcChannel : Nat
  /-- The TEMP constants. -/
  temp : TempConstants
  /-- STOP_LINE_AT_RESET. -/
  stopLineAtReset : Bool
  /-- DIR_PIN_AT_RESET. -/
  dirPinAtReset : Bool
  /-- LEGACY_DELAY_RESET. -/
  legacyDelayReset : Byte
deriving DecidableEq, Repr

/-- The conditions of 00_scope.md R9. -/
def Config.wellFormed (c : Config) : Bool :=
  decide (1 ≤ c.batchSize) &&
  decide (1 ≤ c.rampFloorMs.toNat) &&
  decide (1 ≤ c.rampStepMs.toNat) &&
  decide (c.rampFloorMs.toNat ≤ c.rampMaxMs.toNat) &&
  decide ((c.rampMaxMs.toNat - c.rampFloorMs.toNat) % c.rampStepMs.toNat = 0) &&
  decide (1 ≤ c.overrideStep.toNat) &&
  decide (c.overrideStep.toNat < 2 ^ c.posBits) &&
  decide (c.recalPosition.toNat < 2 ^ c.posBits) &&
  decide (c.recalTarget.toNat < 2 ^ c.posBits) &&
  decide (1 ≤ c.sendRetryLimit) &&
  decide (0 < c.pauseMs) &&
  decide (c.pauseMs < c.exposureMs) &&
  decide (1 ≤ c.irBursts) &&
  decide (1 ≤ c.irPulses) &&
  decide (2 ≤ c.bufCap)

/-- What the table of 00_scope.md R7 asks of a configuration beyond R9: the decided POS_BITS, and the ranges of two OPEN
parameters. -/
def Config.meetsTable (c : Config) : Bool :=
  decide (c.posBits = 16) && decide (10 ≤ c.chanPollTimeoutUs) && decide (c.chanPollTimeoutUs ≤ 10000) &&
  decide (0 < c.sendBackoffUs)

/-- Who takes a step (00_scope.md R4; ENV takes none). -/
inductive Agent where
  | c0
  | c1
  | irq
deriving DecidableEq, Repr, Inhabited

/-- What the scheduler and the environment decide for one step (00_scope.md R5, R12; log 1): the agent that moves, and
the answer to each draw that the step may ask for. An answer the step does not ask for is no draw. -/
structure Turn where
  /-- The agent that moves (00_scope.md R5). -/
  agent : Agent
  /-- NextChar: no character, or the next one of the host stream (40_codec.md R130). -/
  char : Option Byte
  /-- GetPin(BTN_INC) (20_memory.md R73). -/
  btnInc : Bool
  /-- GetPin(BTN_DEC) (20_memory.md R73). -/
  btnDec : Bool
  /-- GetPin(IMG_SWITCH) (20_memory.md R73). -/
  imgSwitch : Bool
  /-- ReadAdc: one sample, a u16 whose low ADC_BITS count (41_host_commands.md R170; 60_exceptions.md R413). -/
  adc : Word16
  /-- Which armed alarm fires (60_exceptions.md R406), counted modulo how many are armed (log 13). -/
  alarm : Nat
deriving DecidableEq, Repr, Inhabited

/-- The turns nobody has fixed: any schedule, any draws (00_scope.md R5, R12). FREE VALUE (log 2). -/
opaque Config.turn : Nat → Turn

/-- The temperature of a sample where the formula of 41_host_commands.md R170 divides by zero, which no stated constant
makes it do. FREE VALUE (log 24). -/
opaque Config.undefinedTemperature : TempConstants → Nat → Int

/-- SEND_RETRY_LIMIT less 1 (00_scope.md R7: OPEN, at least 1). FREE VALUE (log 6). -/
opaque Config.openSendRetries : Nat

/-- SEND_BACKOFF_US less 1 (00_scope.md R7: OPEN, above 0). FREE VALUE (log 6). -/
opaque Config.openSendBackoff : Nat

/-- CHAN_POLL_TIMEOUT_US less 10, modulo 9991 (00_scope.md R7: OPEN, in 10 .. 10000). FREE VALUE (log 6). -/
opaque Config.openChanPollTimeout : Nat

/-- NEXTCHAR_TIMEOUT_US (00_scope.md R7: OPEN). FREE VALUE (log 6). -/
opaque Config.openNextCharTimeout : Nat

/-- PAUSE_MS less 1 (00_scope.md R7: OPEN, above 0). FREE VALUE (log 6). -/
opaque Config.openPause : Nat

/-- EXPOSURE_MS less PAUSE_MS less 1 (00_scope.md R7: OPEN, EXPOSURE_MS above PAUSE_MS). FREE VALUE (log 6). -/
opaque Config.openExposureOverPause : Nat

/-- HAS_INTERVALOMETER (00_scope.md R7: OPEN). FREE VALUE (log 6). -/
opaque Config.openHasIntervalometer : Bool

/-- TEMP_ADC_CHANNEL (00_scope.md R7: OPEN). FREE VALUE (log 6). -/
opaque Config.openTempAdcChannel : Nat

/-- STOP_LINE_AT_RESET (00_scope.md R7: OPEN). FREE VALUE (log 6). -/
opaque Config.openStopLineAtReset : Bool

/-- DIR_PIN_AT_RESET (00_scope.md R7: OPEN). FREE VALUE (log 6). -/
opaque Config.openDirPinAtReset : Bool

/-- LEGACY_DELAY_RESET (00_scope.md R7: OPEN, 8 bits). FREE VALUE (log 6). -/
opaque Config.openLegacyDelayReset : Byte

end Sys2Proof
end

