-- ==== Sys2Proof/Machine/Params.lean ====
section
/-! DEFINITION. The configuration of the block after reset: the values spec/00_scope.md R7 states or decides, and the
OPEN parameters as the constants nobody can see (log 6). -/

namespace Sys2Proof.Machine

/-- FW_VERSION_TEXT "10" as character codes (00_scope.md R7, 41_host_commands.md R171). -/
def fwVersion : List Byte := [0x31, 0x30]

/-- VALUE_VERBS: SN, SP, YT, YB, DB, SD (00_scope.md R7, 30_encoding.md R93). -/
def statedValueVerbs : List Word16 := [0x534E, 0x5350, 0x5954, 0x5942, 0x4442, 0x5344]

/-- The TEMP constants 3.3, 4096, 27, 0.706, 0.001721 (00_scope.md R7). -/
def statedTemp : TempConstants where
  vrefUv := 3300000
  adcSteps := 4096
  refCelsius := 27
  refUv := 706000
  slopeUv := 1721

/-- The configuration record of 00_scope.md R7 (R8: stated literals are defaults; log 7; the approximate ones are nominal:
log 8). Each OPEN parameter meets its constraint by how it is built (log 6). -/
def params : Config where
  posBits := 16
  bufCap := 8
  valueVerbs := statedValueVerbs
  payloadDigits := 4
  rampMaxMs := 40
  rampFloorMs := 2
  rampStepMs := 2
  batchSize := 20
  cooldownMs := 2000
  recalPosition := 1000
  recalTarget := 0
  overrideStep := 5
  settleMs := 10
  c0SleepMs := 10
  chanPollTimeoutUs := 10 + Config.openChanPollTimeout % 9991
  nextCharTimeoutUs := Config.openNextCharTimeout
  sendRetryLimit := Config.openSendRetries + 1
  sendBackoffUs := Config.openSendBackoff + 1
  exposureMs := Config.openPause + 1 + (Config.openExposureOverPause + 1)
  pauseMs := Config.openPause + 1
  irBursts := 2
  irPulses := 16
  irPulseUs := 15
  irGapUs := 7300
  hasIntervalometer := Config.openHasIntervalometer
  fwVersionText := fwVersion
  adcBits := 12
  tempAdcChannel := Config.openTempAdcChannel
  temp := statedTemp
  stopLineAtReset := Config.openStopLineAtReset
  dirPinAtReset := Config.openDirPinAtReset
  legacyDelayReset := Config.openLegacyDelayReset

end Sys2Proof.Machine
end

