-- ==== Sys2Proof/Syntax.lean ====
section
/-! DEFINITION. The instructions of the block, one constructor per row of spec/opcode_table.json: the 21 host verbs,
the row for everything else a frame can say, and the four channel requests. -/

namespace Sys2Proof

/-- A MotionRequest as it travels through `chan` (30_encoding.md R97). -/
inductive MotionRequest where
  | target (v : Position)
  | stop
  | go
  | recalibrate
deriving DecidableEq, Repr

/-- An instruction. A verb of the value-bearing set (30_encoding.md R93) carries the frame's 16-bit value (R94); the
other verbs carry none. -/
inductive Instr where
  /-- FQ, request a stop (41_host_commands.md R162). -/
  | fq
  /-- FG, request a go (R163). -/
  | fg
  /-- GH, half-step status (R164). -/
  | gh
  /-- GC, temperature coefficient (R165). -/
  | gc
  /-- GI, moving status (R166). -/
  | gi
  /-- GN, target position (R167). -/
  | gn
  /-- GP, current position (R168). -/
  | gp
  /-- GT, temperature (R169). -/
  | gt
  /-- GV, firmware version (R171). -/
  | gv
  /-- GD, the legacy delay field (R172). -/
  | gd
  /-- SD, set the legacy delay field (R173). -/
  | sd (v : Word16)
  /-- SF, acknowledge full-step mode (R174). -/
  | sf
  /-- SH, request a recalibration (R175). -/
  | sh
  /-- SN, set a new target and request it (R176). -/
  | sn (v : Word16)
  /-- YB, backlash set, a stub (R177). -/
  | yb (v : Word16)
  /-- ZB, backlash get, a stub (R178). -/
  | zb
  /-- ZT, max steps, a stub (R179). -/
  | zt
  /-- ZA, average temperature, a stub (R180). -/
  | za
  /-- SP, value-bearing without a handler (R181). -/
  | sp (v : Word16)
  /-- YT, value-bearing without a handler (R181). -/
  | yt (v : Word16)
  /-- DB, value-bearing without a handler (R181). -/
  | db (v : Word16)
  /-- A verb of no row, or no verb at all (R161; 30_encoding.md R92; log 23). -/
  | unrecognized (verb : Option Word16)
  /-- Channel request Target(v) (43_motion_requests.md R242). -/
  | target (v : Position)
  /-- Channel request Stop (R244). -/
  | stop
  /-- Channel request Go (R243). -/
  | go
  /-- Channel request Recalibrate (R245). -/
  | recalibrate
deriving DecidableEq, Repr

/-- The instruction C1 runs for a request (43_motion_requests.md R241). -/
def Instr.ofRequest : MotionRequest → Instr
  | .target v => .target v
  | .stop => .stop
  | .go => .go
  | .recalibrate => .recalibrate

end Sys2Proof
end

