-- ==== Sys2Proof/WellFormed.lean ====
section
/-! DEFINITION. Which instructions a host frame or a channel word can spell. Only the fallback row has terms that
nothing spells: a verb whose characters are not kept, and a verb that has a row of its own. -/

namespace Sys2Proof

/-- The character codes a frame keeps: `0`-`9` and `A`-`Z` (30_encoding.md R90; 20_memory.md R61). -/
def keptCode (c : Byte) : Bool :=
  (decide (0x30 ≤ c.toNat) && decide (c.toNat ≤ 0x39)) || (decide (0x41 ≤ c.toNat) && decide (c.toNat ≤ 0x5A))

/-- The verbs that have a row of their own (30_encoding.md R100). -/
def rowVerbs : List Word16 :=
  [0x4651, 0x4647, 0x4748, 0x4743, 0x4749, 0x474E, 0x4750, 0x4754, 0x4756, 0x4744, 0x5344,
   0x5346, 0x5348, 0x534E, 0x5942, 0x5A42, 0x5A54, 0x5A41, 0x5350, 0x5954, 0x4442]

/-- Both characters of the verb are ones a frame keeps (30_encoding.md R91). -/
def verbIsKept (verb : Word16) : Bool :=
  keptCode (verb.extractLsb' 8 8) && keptCode (verb.extractLsb' 0 8)

/-- The verb has no row of its own (30_encoding.md R100). -/
def verbHasNoRow (verb : Word16) : Bool := !rowVerbs.contains verb

/-- An instruction that some frame or channel word spells. -/
def Instr.wellFormed : Instr → Bool
  | .unrecognized (some verb) => verbIsKept verb && verbHasNoRow verb
  | .unrecognized none => true
  | .fq | .fg | .gh | .gc | .gi | .gn | .gp | .gt | .gv | .gd => true
  | .sd _ | .sn _ | .yb _ | .sp _ | .yt _ | .db _ => true
  | .sf | .sh | .zb | .zt | .za => true
  | .target _ | .stop | .go | .recalibrate => true

end Sys2Proof
end

