-- ==== Sys2Proof/Decode.lean ====
section
/-! DEFINITION. The three encoded interfaces of the block (spec/30_encoding.md, spec/40_codec.md): host frames, channel
words and feedback words. First the decoder: the codec's handling of one character, the parse of a kept buffer, the verb
table; then the encoder. -/

namespace Sys2Proof

/-! ## Characters -/

/-- The class of a host character (30_encoding.md R90). -/
inductive CharClass where
  | frameStart
  | frameEnd
  | data
  | other
deriving DecidableEq, Repr

/-- A code is in the closed range lo .. hi. -/
def codeBetween (lo hi : Nat) (c : Byte) : Bool := decide (lo ≤ c.toNat) && decide (c.toNat ≤ hi)

/-- `0`-`9` and `A`-`Z`, uppercase only (30_encoding.md R90; 20_memory.md R61; log 9). -/
def isDataChar (c : Byte) : Bool := codeBetween 0x30 0x39 c || codeBetween 0x41 0x5A c

/-- Every character falls into exactly one class (30_encoding.md R90): `:` is 0x3A and `#` is 0x23. -/
def charClass (c : Byte) : CharClass :=
  if c = 0x3A then .frameStart
  else if c = 0x23 then .frameEnd
  else if isDataChar c then .data
  else .other

/-! ## Values -/

/-- The value of a hex digit `0`-`9`, `A`-`F`; none for any other character (40_codec.md R137). -/
def hexDigitValue (c : Byte) : Option Nat :=
  if codeBetween 0x30 0x39 c then some (c.toNat - 0x30)
  else if codeBetween 0x41 0x46 c then some (c.toNat - 0x37)
  else none

/-- The loop of HexValue, left to right, from the value so far (40_codec.md R137). -/
def hexValueFrom (v : Nat) : List Byte → Nat
  | [] => v
  | c :: cs =>
    match hexDigitValue c with
    | none => 0
    | some d => hexValueFrom (v * 16 + d) cs

/-- HexValue: 0 for the empty payload, 0 if any character is no hex digit, else the number (40_codec.md R137). -/
def hexValue (payload : List Byte) : Nat := hexValueFrom 0 payload

/-! ## The codec's state and one character of it -/

/-- The codec buffer (10_state.md R33); rxLen is the buffer's length (log 17). -/
structure Codec where
  rxBuf : List Byte
  inFrame : Bool
deriving DecidableEq, Repr

/-- One character, with BUF_CAP as `cap` (40_codec.md R131 to R135): the codec afterwards, and the buffer to parse when
the character ends a frame. -/
def codecFeed (cap : Nat) (c : Codec) (ch : Byte) : Codec × Option (List Byte) :=
  match charClass ch with
  | .frameStart => ({ rxBuf := [], inFrame := true }, none)
  | .data => if c.inFrame && decide (c.rxBuf.length < cap) then ({ c with rxBuf := c.rxBuf ++ [ch] }, none) else (c, none)
  | .other => (c, none)
  | .frameEnd => if c.inFrame then ({ rxBuf := [], inFrame := false }, some c.rxBuf) else (c, none)

/-! ## Parsing and the verb table -/

/-- VERB16 = code(b0) × 256 + code(b1) (30_encoding.md R92). -/
def verb16 (b0 b1 : Byte) : Word16 := BitVec.ofNat 16 (b0.toNat * 256 + b1.toNat)

/-- The Command record of 40_codec.md R136; it is transient and no state. No handler reads `present`. -/
structure Command where
  verb : Option Word16
  value : Word32
  present : Bool
deriving DecidableEq, Repr

/-- Parse (40_codec.md R136): characters 0 and 1 are the verb, at most PAYLOAD_DIGITS more the payload of a verb of
VALUE_VERBS. -/
def parse (c : Config) : List Byte → Command
  | b0 :: b1 :: rest =>
    if c.valueVerbs.contains (verb16 b0 b1) then
      { verb := some (verb16 b0 b1)
        value := BitVec.ofNat 32 (hexValue (rest.take c.payloadDigits))
        present := !rest.isEmpty }
    else { verb := some (verb16 b0 b1), value := 0, present := false }
  | _ => { verb := none, value := 0, present := false }

/-- The dispatch table (30_encoding.md R100, 41_host_commands.md R181), with what each row makes of the frame's value. -/
def verbTable : List (Word16 × (Word16 → Instr)) :=
  [(0x4651, fun _ => .fq), (0x4647, fun _ => .fg), (0x4748, fun _ => .gh), (0x4743, fun _ => .gc),
   (0x4749, fun _ => .gi), (0x474E, fun _ => .gn), (0x4750, fun _ => .gp), (0x4754, fun _ => .gt),
   (0x4756, fun _ => .gv), (0x4744, fun _ => .gd), (0x5344, .sd), (0x5346, fun _ => .sf),
   (0x5348, fun _ => .sh), (0x534E, .sn), (0x5942, .yb), (0x5A42, fun _ => .zb),
   (0x5A54, fun _ => .zt), (0x5A41, fun _ => .za), (0x5350, .sp), (0x5954, .yt), (0x4442, .db)]

/-- The instruction of a parsed command: its verb's row, or the fallback row (41_host_commands.md R160, R161). -/
def instrOfCommand (cmd : Command) : Instr :=
  match cmd.verb with
  | none => .unrecognized none
  | some verb =>
    match verbTable.lookup verb with
    | some build => build (cmd.value.setWidth 16)
    | none => .unrecognized (some verb)

/-- The instruction a kept buffer stands for (40_codec.md R135). -/
def decodeBuffer (c : Config) (buf : List Byte) : Instr := instrOfCommand (parse c buf)

/-- The instructions a stream of host characters dispatches, in order, from a codec state (40_codec.md R130 to R135). -/
def decodeStream (c : Config) (k : Codec) : List Byte → List Instr
  | [] => []
  | ch :: rest =>
    match (codecFeed c.bufCap k ch).2 with
    | none => decodeStream c (codecFeed c.bufCap k ch).1 rest
    | some buf => decodeBuffer c buf :: decodeStream c (codecFeed c.bufCap k ch).1 rest

/-! ## Channel and feedback words -/

/-- A channel word is decoded by KIND, bits 17:16, alone; the rest is ignored but for Target's VALUE
(30_encoding.md R98). -/
def decodeRequest (w : Word32) : MotionRequest :=
  if w.extractLsb' 16 2 = 0 then .target (w.extractLsb' 0 16)
  else if w.extractLsb' 16 2 = 1 then .stop
  else if w.extractLsb' 16 2 = 2 then .go
  else .recalibrate

/-- The instruction a channel word stands for: every word is one (30_encoding.md R98). -/
def decodeChannelWord (w : Word32) : Instr := Instr.ofRequest (decodeRequest w)

/-- The target half of a feedback word, bits 31:16 (30_encoding.md R99). -/
def reportTarget (w : Word32) : Position := w.extractLsb' 16 16

/-- The current half of a feedback word, bits 15:0 (30_encoding.md R99). -/
def reportCurrent (w : Word32) : Position := w.extractLsb' 0 16

/-! ## The whole decoder -/

/-- What an instruction is written as: a host frame's characters, or a channel word. -/
inductive Encoded where
  | frame (chars : List Byte)
  | word (w : Word32)
deriving DecidableEq, Repr

/-- Why a string of characters is not the spelling of one instruction. The machine itself has no such error: it ignores
what dispatches nothing (60_exceptions.md R401). -/
inductive DecodeError where
  /-- No frame is completed in the string. -/
  | noFrame
  /-- More than one frame is completed in the string. -/
  | manyFrames
deriving DecidableEq, Repr

/-- The instruction of one frame's characters or of one channel word, total on any bytes. -/
def decode (c : Config) : Encoded → Except DecodeError Instr
  | .word w => .ok (decodeChannelWord w)
  | .frame chars =>
    match decodeStream c { rxBuf := [], inFrame := false } chars with
    | [] => .error .noFrame
    | [i] => .ok i
    | _ :: _ :: _ => .error .manyFrames

/-- The first kept character of a table word: bits 15:8 of VERB16 (30_encoding.md R92; log 21). -/
def tableVerbBuffer (w : Nat) : List Byte := [BitVec.ofNat 8 (w / 256), BitVec.ofNat 8 w]

/-- The decoder on a word numbered as spec/opcode_table.json numbers it: a VERB16 row's word is the two kept
characters of a frame with an empty payload, a CHAN32 row's word is the channel word (log 21), with the parameters the
block has after reset. -/
def decodeTableWord (nbits w : Nat) : Option Instr :=
  if nbits ≤ 16 then some (decodeBuffer Machine.params (tableVerbBuffer w))
  else if nbits ≤ 32 then some (decodeChannelWord (BitVec.ofNat 32 w))
  else none

/-! ## The encoder -/

/-- The uppercase hex digit of a nibble (40_codec.md R142). -/
def hexChar (d : BitVec 4) : Byte := if d < 10 then 0x30 + d.setWidth 8 else 0x37 + d.setWidth 8

/-- Two hex digits, most significant first (20_memory.md R62). -/
def hexDigits2 (v : BitVec 8) : List Byte := [hexChar (v.extractLsb' 4 4), hexChar (v.extractLsb' 0 4)]

/-- Four hex digits, most significant first (20_memory.md R62). -/
def hexDigits4 (v : Word16) : List Byte :=
  [hexChar (v.extractLsb' 12 4), hexChar (v.extractLsb' 8 4), hexChar (v.extractLsb' 4 4), hexChar (v.extractLsb' 0 4)]

/-- The channel word of a request: reserved bits 31:18 and an unused VALUE are written 0 (30_encoding.md R97). -/
def encodeRequest : MotionRequest → Word32
  | .target v => BitVec.ofNat 32 v.toNat
  | .stop => 0x00010000
  | .go => 0x00020000
  | .recalibrate => 0x00030000

/-- The feedback word target : current (30_encoding.md R99). -/
def encodeReport (target current : Position) : Word32 := BitVec.ofNat 32 (target.toNat * 65536 + current.toNat)

/-- The frame `:` verb payload `#` (30_encoding.md R91, R103). -/
def frameOf (verb : Word16) (payload : List Byte) : Encoded :=
  .frame ([0x3A, verb.extractLsb' 8 8, verb.extractLsb' 0 8] ++ payload ++ [0x23])

/-- The spelling of an instruction: the well-formed frame of 30_encoding.md R103, with four hex digits for a value, or
the channel word of R97. The instruction of no verb is the empty frame `:#`. -/
def encode : Instr → Encoded
  | .fq => frameOf 0x4651 []
  | .fg => frameOf 0x4647 []
  | .gh => frameOf 0x4748 []
  | .gc => frameOf 0x4743 []
  | .gi => frameOf 0x4749 []
  | .gn => frameOf 0x474E []
  | .gp => frameOf 0x4750 []
  | .gt => frameOf 0x4754 []
  | .gv => frameOf 0x4756 []
  | .gd => frameOf 0x4744 []
  | .sd v => frameOf 0x5344 (hexDigits4 v)
  | .sf => frameOf 0x5346 []
  | .sh => frameOf 0x5348 []
  | .sn v => frameOf 0x534E (hexDigits4 v)
  | .yb v => frameOf 0x5942 (hexDigits4 v)
  | .zb => frameOf 0x5A42 []
  | .zt => frameOf 0x5A54 []
  | .za => frameOf 0x5A41 []
  | .sp v => frameOf 0x5350 (hexDigits4 v)
  | .yt v => frameOf 0x5954 (hexDigits4 v)
  | .db v => frameOf 0x4442 (hexDigits4 v)
  | .unrecognized none => .frame [0x3A, 0x23]
  | .unrecognized (some verb) => frameOf verb []
  | .target v => .word (encodeRequest (.target v))
  | .stop => .word (encodeRequest .stop)
  | .go => .word (encodeRequest .go)
  | .recalibrate => .word (encodeRequest .recalibrate)

end Sys2Proof
end

