-- ==== Sys2Proof/Machine/State.lean ====
section
/-! DEFINITION. The state of the block (spec/10_state.md), one field per register, mailbox, pin, alarm set and trace;
the ways a step can stop; the state after reset (R48) and the refusal of an ill-formed configuration before it. -/

namespace Sys2Proof.Machine

/-- The reason string of a Defect (60_exceptions.md R402, R404). -/
inductive DefectReason where
  /-- "direction inconsistent with target/current" (44_stepping.md R275). -/
  | directionInconsistent
deriving DecidableEq, Repr

/-- Why the machine stops. -/
inductive Fault where
  /-- Raised by `step` in a state whose fault record holds a Defect: no agent takes any further step
  (60_exceptions.md R402; log 11). Safe: the spec itself ends the run there. -/
  | defect (reason : DefectReason)
deriving DecidableEq, Repr

/-- What the model gives no meaning to. -/
inductive Refusal where
  /-- Raised by an arm of `exec` whose instruction has no meaning yet: none has been left so. Safe. -/
  | notModelled (mnemonic : String)
  /-- Raised by `boot` for a configuration that breaks 00_scope.md R9 (60_exceptions.md R403; log 5). Safe: the spec
  gives such a configuration no behaviour. -/
  | illFormedConfig
  /-- Raised by `boot` for a configuration that meets R9 and breaks a constraint of the table of 00_scope.md R7 (log 5).
  Safe: such a record is no block instance. -/
  | outsideTable
deriving DecidableEq, Repr

/-! ## Motor engine registers (10_state.md R21 to R27) -/

/-- The motor engine's state (R21; log 22). No rule enters Stopped, and it acts as Idle. -/
inductive EngineMode where
  | idle
  | stepping
  | stopped
deriving DecidableEq, Repr

/-- The direction register (R26; log 22). -/
inductive Direction where
  | forward
  | reverse
deriving DecidableEq, Repr

/-- MotorState (10_state.md R21 to R27); `stepping` is computed from `mode` (R24; log 17). -/
structure MotorState where
  mode : EngineMode
  currentPosition : Position
  targetPosition : Position
  stepIntervalMs : Word32
  direction : Direction
  stepsRemaining : Word32
deriving DecidableEq, Repr

/-! ## C1's sequencer (R28 to R30) -/

/-- C1's next atomic step (R28). -/
inductive C1Phase where
  | override
  | imaging
  | poll
  | motion
  | pulsing
  | finalReport
deriving DecidableEq, Repr

/-- C1's sequencer registers (R28 to R30). -/
structure C1State where
  phase : C1Phase
  batchCount : Nat
  pendingFinal : Word32
deriving DecidableEq, Repr

/-! ## Intervalometer (R31) -/

/-- ImagingState (R31); all false when the intervalometer is not built (log 16). -/
structure ImagingState where
  started : Bool
  shutterOpen : Bool
  clickRequired : Bool
deriving DecidableEq, Repr

/-! ## Host front end registers (R33 to R38) -/

/-- C0's next atomic step (R38). -/
inductive C0Phase where
  | getChar
  | sending
  | pollFeedback
deriving DecidableEq, Repr

/-- C0's registers (R33 to R38). -/
structure C0State where
  codec : Codec
  hostTarget : Position
  hostPosition : Position
  legacyDelay : Byte
  pendingSend : Option Word32
  sendAttempts : Nat
  phase : C0Phase
deriving DecidableEq, Repr

/-! ## Pins, alarms and traces (R41 to R44) -/

/-- The output pins (R41). -/
inductive OutPin where
  | step
  | dir
  | stop
  | ir
deriving DecidableEq, Repr

/-- The inputs GetPin samples (R42). -/
inductive InPin where
  | btnInc
  | btnDec
  | imgSwitch
deriving DecidableEq, Repr

/-- The levels the block drives (R41): 1 is high, Forward, asserted, lit. -/
structure Pins where
  step : Bool
  dir : Bool
  stop : Bool
  ir : Bool
deriving DecidableEq, Repr

/-- The kinds of alarm (R43). -/
inductive AlarmKind where
  | cooldown
  | exposure
  | pause
deriving DecidableEq, Repr

/-- One armed alarm (R43). -/
structure Alarm where
  kind : AlarmKind
  delayMs : Nat
deriving DecidableEq, Repr

/-- An event of `pinTrace` (R44); a Hold is in microseconds (00_scope.md R6). -/
inductive PinEvent where
  | pin (id : OutPin) (level : Bool)
  | hold (us : Nat)
deriving DecidableEq, Repr

/-- An event of `dropLog` (R44). -/
inductive DropEvent where
  | droppedRequest (w : Word32)
  | droppedReport (w : Word32)
deriving DecidableEq, Repr

/-! ## The model's own part -/

/-- What the scheduler and the environment decide (log 1): the next step's turn, the turns fixed for the steps after it,
and how many turns have been taken from the free sequence Config.turn (log 2). -/
structure Env where
  turn : Turn
  script : List Turn
  drawn : Nat
deriving DecidableEq, Repr

/-! ## The state -/

/-- The block's state, exactly the rows of 10_state.md R21 to R44 (R20). -/
structure BlockState where
  /-- Motor engine registers (R21 to R27). -/
  motor : MotorState
  /-- C1's sequencer (R28 to R30). -/
  c1 : C1State
  /-- Intervalometer registers (R31). -/
  imaging : ImagingState
  /-- C0's registers (R33 to R38). -/
  c0 : C0State
  /-- The command mailbox, C0 to C1 (R39). -/
  chan : Option Word32
  /-- The feedback mailbox, C1 to C0 (R40). -/
  fb : Option Word32
  /-- Output pin levels (R41). -/
  pins : Pins
  /-- Armed alarms, a multiset held as a sorted list (R43; log 12). -/
  alarms : List Alarm
  /-- Characters emitted to the host, in order (R44). -/
  hostOut : List Byte
  /-- Pin and hold events, in order (R44). -/
  pinTrace : List PinEvent
  /-- Dropped requests and reports, in order (R44). -/
  dropLog : List DropEvent
  /-- The fault record (R44; 60_exceptions.md R402). -/
  faults : List DefectReason
deriving DecidableEq, Repr

/-- What a step needs: the block's state, and beside it what is no state of the block (R20, R49), the configuration
(log 5) and the environment's decisions (log 1). -/
structure State extends BlockState where
  /-- The configuration record (00_scope.md R7); no step writes it (R49; log 5). -/
  cfg : Config
  /-- The model's own: scheduling and draws (log 1). -/
  env : Env
deriving DecidableEq, Repr

/-- The state after reset of a block with configuration `c`, given what the environment decides: the table of
10_state.md R48. -/
def State.resetOf (c : Config) (e : Env) : State where
  cfg := c
  env := e
  motor :=
    { mode := .idle, currentPosition := 0, targetPosition := 0, stepIntervalMs := c.rampMaxMs,
      direction := .forward, stepsRemaining := 0 }
  c1 := { phase := .override, batchCount := 0, pendingFinal := 0 }
  imaging := { started := false, shutterOpen := false, clickRequired := false }
  c0 :=
    { codec := { rxBuf := [], inFrame := false }, hostTarget := 0, hostPosition := 0,
      legacyDelay := c.legacyDelayReset, pendingSend := none, sendAttempts := 0, phase := .getChar }
  chan := none
  fb := none
  pins := { step := false, dir := c.dirPinAtReset, stop := c.stopLineAtReset, ir := false }
  alarms := []
  hostOut := []
  pinTrace := []
  dropLog := []
  faults := []

/-- The machine right after reset (10_state.md R48, 70_reset_and_hazards.md R450): the configuration of `params`, and
every turn free (log 2). -/
def State.reset : State := State.resetOf params { turn := Config.turn 0, script := [], drawn := 1 }

/-- Power-on with a configuration: one that breaks 00_scope.md R9 is refused before reset (60_exceptions.md R403), and so
is one that breaks a constraint of R7's table (log 5). -/
def boot (c : Config) (e : Env) : Host.Outcome State Fault Refusal :=
  if c.wellFormed then (if c.meetsTable then .next (State.resetOf c e) else .refused .outsideTable)
  else .refused .illFormedConfig

end Sys2Proof.Machine
end

