-- ==== Sys2Proof/Machine/Ops.lean ====
section
/-! DEFINITION. The primitives of 00_scope.md R11 as named operations: mailboxes, pins, inputs, the ADC, alarms, the
traces, the fault; and the operations several steps share: Send, the two position reports, StartMotion. -/

namespace Sys2Proof.Machine

/-! ## Mailboxes (20_memory.md R64) -/

/-- SlotTryPut: whether the put succeeded, and the slot afterwards. -/
def slotTryPut (slot : Option Word32) (w : Word32) : Bool × Option Word32 :=
  match slot with
  | none => (true, some w)
  | some held => (false, some held)

/-- SlotTake: the word taken, if any, and the slot afterwards. -/
def slotTake (slot : Option Word32) : Option Word32 × Option Word32 := (slot, none)

/-- SlotFull. -/
def slotFull (slot : Option Word32) : Bool := slot.isSome

/-! ## Pins, holds and inputs -/

/-- The pin levels with one pin driven. -/
def pinsWith (id : OutPin) (level : Bool) (p : Pins) : Pins :=
  match id with
  | .step => { p with step := level }
  | .dir => { p with dir := level }
  | .stop => { p with stop := level }
  | .ir => { p with ir := level }

/-- The level of one pin. -/
def pinLevel (id : OutPin) (p : Pins) : Bool :=
  match id with
  | .step => p.step
  | .dir => p.dir
  | .stop => p.stop
  | .ir => p.ir

/-- SetPin (20_memory.md R71): drive the pin and append the event, whatever level it had. -/
def setPin (id : OutPin) (level : Bool) (s : State) : State :=
  { s with pins := pinsWith id level s.pins, pinTrace := s.pinTrace ++ [.pin id level] }

/-- Hold (00_scope.md R6): a duration is trace data. -/
def hold (us : Nat) (s : State) : State := { s with pinTrace := s.pinTrace ++ [.hold us] }

/-- GetPin (20_memory.md R73): the draw of this step's turn. -/
def getPin (id : InPin) (s : State) : Bool :=
  match id with
  | .btnInc => s.env.turn.btnInc
  | .btnDec => s.env.turn.btnDec
  | .imgSwitch => s.env.turn.imgSwitch

/-- NextChar (40_codec.md R130): the draw of this step's turn. -/
def nextChar (s : State) : Option Byte := s.env.turn.char

/-- ReadAdc (41_host_commands.md R170; 60_exceptions.md R413): a sample in 0 .. 2^ADC_BITS − 1 in a u16, the draw of this
step's turn, whatever the channel (log 18). -/
def readAdc (_channel : Nat) (s : State) : Word16 := BitVec.ofNat 16 (s.env.turn.adc.toNat % 2 ^ s.cfg.adcBits)

/-- Emit (40_codec.md R138). -/
def emit (chars : List Byte) (s : State) : State := { s with hostOut := s.hostOut ++ chars }

/-- Append to the drop log (10_state.md R44). -/
def logDrop (e : DropEvent) (s : State) : State := { s with dropLog := s.dropLog ++ [e] }

/-! ## Alarms (60_exceptions.md R405, R406) -/

/-- A number for each alarm kind, only to sort by (log 12). -/
def alarmRank : AlarmKind → Nat
  | .cooldown => 0
  | .exposure => 1
  | .pause => 2

/-- The order alarms are listed in; it says nothing about when they fire (log 12). -/
def alarmLe (a b : Alarm) : Bool :=
  decide (alarmRank a.kind < alarmRank b.kind) ||
    (decide (alarmRank a.kind = alarmRank b.kind) && decide (a.delayMs ≤ b.delayMs))

/-- A multiset of alarms with one more, in its sorted form. -/
def insertAlarm (a : Alarm) : List Alarm → List Alarm
  | [] => [a]
  | b :: rest => if alarmLe a b then a :: b :: rest else b :: insertAlarm a rest

/-- The sorted form of a multiset of alarms (log 12). -/
def alarmsSorted : List Alarm → Bool
  | [] => true
  | [_] => true
  | a :: b :: rest => alarmLe a b && alarmsSorted (b :: rest)

/-- ScheduleAlarm (60_exceptions.md R405). -/
def scheduleAlarm (delayMs : Nat) (kind : AlarmKind) (s : State) : State :=
  { s with alarms := insertAlarm { kind := kind, delayMs := delayMs } s.alarms }

/-- Which of the armed alarms the turn chooses to fire (R406; log 13). -/
def firingIndex (s : State) : Nat := s.env.turn.alarm % s.alarms.length

/-! ## The fault (60_exceptions.md R402) -/

/-- `raise Defect(reason)`: append to the fault record and write nothing else. No further step is taken (log 11). -/
def raiseDefect (reason : DefectReason) (s : State) : State := { s with faults := s.faults ++ [reason] }

/-! ## Sending a request and reporting a position (42_channel.md) -/

/-- Send (R210): the request becomes C0's pending send. -/
def send (req : MotionRequest) (s : State) : State :=
  { s with c0 := { s.c0 with pendingSend := some (encodeRequest req), sendAttempts := 0 } }

/-- fbWord (R215): the engine's target and current positions. -/
def fbWord (s : State) : Word32 := encodeReport s.motor.targetPosition s.motor.currentPosition

/-- ReportIntermediate (R216): one try to put fbWord, dropped and logged when `fb` is full. -/
def reportIntermediate (s : State) : State :=
  match slotTryPut s.fb (fbWord s) with
  | (true, slot) => { s with fb := slot }
  | (false, _) => logDrop (.droppedReport (fbWord s)) s

/-- ReportFinal (R217), the part inside the calling step: C1 will hold in FinalReport until `fb` is empty. -/
def reportFinal (s : State) : State :=
  { s with c1 := { s.c1 with pendingFinal := fbWord s, phase := .finalReport } }

/-! ## Starting a motion (43_motion_requests.md R240) -/

/-- |t − c|, both read as unsigned (R240). -/
def distance (t c : Position) : Nat := if c.toNat ≤ t.toNat then t.toNat - c.toNat else c.toNat - t.toNat

/-- The direction toward `t` from `c` by an unsigned compare; unchanged when they are equal (R240). -/
def directionToward (t c : Position) (unchanged : Direction) : Direction :=
  if c.toNat < t.toNat then .forward else if t.toNat < c.toNat then .reverse else unchanged

/-- Whether a direction is Forward, the level of the DIR pin (R240; 10_state.md R41). -/
def isForward : Direction → Bool
  | .forward => true
  | .reverse => false

/-- The motor registers StartMotion(t) leaves (R240). -/
def motorStarted (rampMaxMs : Word32) (t : Position) (m : MotorState) : MotorState where
  mode := .stepping
  currentPosition := m.currentPosition
  targetPosition := t
  stepIntervalMs := rampMaxMs
  direction := directionToward t m.currentPosition m.direction
  stepsRemaining := BitVec.ofNat 32 (distance t m.currentPosition)

/-- StartMotion(t) (R240): the motor registers, then DIR, then STOP. -/
def startMotion (t : Position) (s : State) : State :=
  let s1 := { s with motor := motorStarted s.cfg.rampMaxMs t s.motor }
  setPin .stop false (setPin .dir (isForward s1.motor.direction) s1)

/-! ## Outcomes and turns -/

/-- Go on from a next state; a fault or a refusal stays. -/
def thenDo (o : Host.Outcome State Fault Refusal) (f : State → State) : Host.Outcome State Fault Refusal :=
  match o with
  | .next s => .next (f s)
  | .fault r => .fault r
  | .refused r => .refused r

/-- The environment after a step: the next turn of the script, or the next free turn (log 1, log 2). -/
def nextEnv (e : Env) : Env :=
  match e.script with
  | t :: rest => { e with turn := t, script := rest }
  | [] => { turn := Config.turn e.drawn, script := [], drawn := e.drawn + 1 }

/-- Move on to the next turn. -/
def advance (s : State) : State := { s with env := nextEnv s.env }

end Sys2Proof.Machine
end

