-- ==== Sys2Proof/Machine/AlarmService.lean ====
section
/-! DEFINITION. Agent IRQ, the block's only interrupt: the Fire step (60_exceptions.md R406) and the callbacks it runs.
Entering and leaving a callback saves and restores nothing (R409). -/

namespace Sys2Proof.Machine

/-- The Cooldown callback asserts the stop line, whatever the engine does (44_stepping.md R279). -/
def cooldownCallback (s : State) : State := setPin .stop true s

/-- The Exposure callback requires the closing click (46_intervalometer.md R323). -/
def exposureCallback (s : State) : State := { s with imaging := { s.imaging with clickRequired := true } }

/-- The Pause callback requires the re-opening click and does not read the switch (46_intervalometer.md R324). -/
def pauseCallback (s : State) : State := { s with imaging := { s.imaging with clickRequired := true } }

/-- The callback of an alarm's kind (60_exceptions.md R405). -/
def runCallback (kind : AlarmKind) (s : State) : State :=
  match kind with
  | .cooldown => cooldownCallback s
  | .exposure => exposureCallback s
  | .pause => pauseCallback s

/-- The Fire step (60_exceptions.md R406): the alarm the turn chooses is removed and its callback runs. With no alarm
armed the step is not enabled and nothing changes (log 3). -/
def fireStep (s : State) : State :=
  match s.alarms[firingIndex s]? with
  | none => s
  | some a => runCallback a.kind { s with alarms := s.alarms.eraseIdx (firingIndex s) }

end Sys2Proof.Machine
end

