-- ==== Sys2Proof/Machine/MotionVerbs.lean ====
section
/-! DEFINITION. The motion verbs FQ, FG, SH and SN (41_host_commands.md section 2): each records a request in C0's
pending send and returns without waiting for it (R160). -/

namespace Sys2Proof.Machine

/-- FQ: Send(Stop) (41_host_commands.md R162). -/
def execFq (s : State) : Host.Outcome State Fault Refusal := .next (send .stop s)

/-- FG: Send(Go) (41_host_commands.md R163). -/
def execFg (s : State) : Host.Outcome State Fault Refusal := .next (send .go s)

/-- SH: Send(Recalibrate); hostTarget is not written (41_host_commands.md R175). -/
def execSh (s : State) : Host.Outcome State Fault Refusal := .next (send .recalibrate s)

/-- SN: hostTarget takes the value, then Send(Target(v)) (41_host_commands.md R176). -/
def execSn (v : Word16) (s : State) : Host.Outcome State Fault Refusal :=
  .next (send (.target v) { s with c0 := { s.c0 with hostTarget := v } })

end Sys2Proof.Machine
end

