-- ==== Sys2Proof/Machine/Operands.lean ====
section
/-! DEFINITION. What the instructions compute from their operands: the response forms (30_encoding.md R96, 40_codec.md
R138 to R142) and the temperature of an ADC sample (41_host_commands.md R170). -/

namespace Sys2Proof.Machine

/-- The character `#` that ends a response (40_codec.md R139 to R141). -/
def responseEnd : List Byte := [0x23]

/-- fmtText (40_codec.md R141). -/
def fmtText (text : List Byte) : List Byte := text ++ responseEnd

/-- fmtHex2: the low 8 bits as two hex digits (40_codec.md R139). -/
def fmtHex2 (v : Int) : List Byte := hexDigits2 (BitVec.ofInt 8 v) ++ responseEnd

/-- fmtHex4: the low 16 bits, two's complement, as four hex digits (40_codec.md R140). -/
def fmtHex4 (v : Int) : List Byte := hexDigits4 (BitVec.ofInt 16 v) ++ responseEnd

/-- Temp(s) (41_host_commands.md R170): twice the floor of refCelsius − (s × vref / steps − ref) / slope, over the common
denominator slope × steps. With the stated constants it is 2 × floor((96315776 − 103125 × s) / 220288), the rule's integer
form. Where the formula divides by zero the value is free (log 24). -/
def temperature (k : TempConstants) (sample : Word16) : Int :=
  let den := k.slopeUv * k.adcSteps
  if den = 0 then Config.undefinedTemperature k sample.toNat
  else 2 * Int.fdiv (k.refCelsius * den + k.refUv * k.adcSteps - sample.toNat * k.vrefUv) den

/-- "00" (41_host_commands.md R164 to R166). -/
def text00 : List Byte := [0x30, 0x30]

/-- "01" (41_host_commands.md R166). -/
def text01 : List Byte := [0x30, 0x31]

end Sys2Proof.Machine
end

