-- ==== Sys2Proof/Machine/Queries.lean ====
section
/-! DEFINITION. The query verbs GH, GC, GI, GN, GP, GT, GV and GD (41_host_commands.md section 3): each emits one
response, from C0's own registers or the ADC, and changes nothing else. -/

namespace Sys2Proof.Machine

/-- GH: half-step status, always "00" (41_host_commands.md R164). -/
def execGh (s : State) : Host.Outcome State Fault Refusal := .next (emit (fmtText text00) s)

/-- GC: temperature coefficient, always "00" (41_host_commands.md R165). -/
def execGc (s : State) : Host.Outcome State Fault Refusal := .next (emit (fmtText text00) s)

/-- GI: "01" if hostTarget differs from hostPosition, else "00" (41_host_commands.md R166). -/
def execGi (s : State) : Host.Outcome State Fault Refusal :=
  .next (emit (fmtText (if s.c0.hostTarget ≠ s.c0.hostPosition then text01 else text00)) s)

/-- GN: hostTarget in four hex digits (41_host_commands.md R167). -/
def execGn (s : State) : Host.Outcome State Fault Refusal := .next (emit (fmtHex4 s.c0.hostTarget.toNat) s)

/-- GP: hostPosition in four hex digits (41_host_commands.md R168). -/
def execGp (s : State) : Host.Outcome State Fault Refusal := .next (emit (fmtHex4 s.c0.hostPosition.toNat) s)

/-- GT: the temperature of one ADC sample in four hex digits (41_host_commands.md R169, R170). -/
def execGt (s : State) : Host.Outcome State Fault Refusal :=
  .next (emit (fmtHex4 (temperature s.cfg.temp (readAdc s.cfg.tempAdcChannel s))) s)

/-- GV: FW_VERSION_TEXT (41_host_commands.md R171). -/
def execGv (s : State) : Host.Outcome State Fault Refusal := .next (emit (fmtText s.cfg.fwVersionText) s)

/-- GD: legacyDelay in two hex digits (41_host_commands.md R172). -/
def execGd (s : State) : Host.Outcome State Fault Refusal := .next (emit (fmtHex2 s.c0.legacyDelay.toNat) s)

end Sys2Proof.Machine
end

