-- ==== Sys2Proof/Machine/Requests.lean ====
section
/-! DEFINITION. The four motion requests as C1 applies them in its Poll step (43_motion_requests.md R241 to R245). -/

namespace Sys2Proof.Machine

/-- Target(v), in any state: StartMotion(v) (43_motion_requests.md R242). -/
def execTarget (v : Position) (s : State) : Host.Outcome State Fault Refusal := .next (startMotion v s)

/-- Stop, in any state: motion ends where the motor stands, the stop line is asserted and a final report is due
(43_motion_requests.md R244). -/
def execStop (s : State) : Host.Outcome State Fault Refusal :=
  let s1 := { s with motor := { s.motor with targetPosition := s.motor.currentPosition, stepsRemaining := 0 } }
  let s2 := setPin .stop true s1
  .next (reportFinal { s2 with motor := { s2.motor with mode := .idle } })

/-- Go: nothing while Stepping; in Idle or Stopped StartMotion(targetPosition) (43_motion_requests.md R243). -/
def execGo (s : State) : Host.Outcome State Fault Refusal :=
  match s.motor.mode with
  | .stepping => .next s
  | .idle | .stopped => .next (startMotion s.motor.targetPosition s)

/-- Recalibrate, in any state: the position is forced to RECAL_POSITION, then StartMotion(RECAL_TARGET)
(43_motion_requests.md R245). -/
def execRecalibrate (s : State) : Host.Outcome State Fault Refusal :=
  .next (startMotion s.cfg.recalTarget { s with motor := { s.motor with currentPosition := s.cfg.recalPosition } })

end Sys2Proof.Machine
end

