-- ==== Sys2Proof/Machine/Settings.lean ====
section
/-! DEFINITION. The setting and no-op verbs (41_host_commands.md section 4): SD writes the legacy field; SF, the stubs,
the value-bearing verbs without a handler and everything unrecognized do nothing and answer nothing. -/

namespace Sys2Proof.Machine

/-- No response, no state change (41_host_commands.md R161, R174, R177 to R181). -/
def doNothing (s : State) : Host.Outcome State Fault Refusal := .next s

/-- SD: legacyDelay takes the value's low 8 bits (41_host_commands.md R173). -/
def execSd (v : Word16) (s : State) : Host.Outcome State Fault Refusal :=
  .next { s with c0 := { s.c0 with legacyDelay := v.extractLsb' 0 8 } }

/-- SF: acknowledge full-step mode; nothing (41_host_commands.md R174). -/
def execSf (s : State) : Host.Outcome State Fault Refusal := doNothing s

/-- YB: a stub; the value is discarded (41_host_commands.md R177). -/
def execYb (_v : Word16) (s : State) : Host.Outcome State Fault Refusal := doNothing s

/-- ZB: a stub; no response (41_host_commands.md R178). -/
def execZb (s : State) : Host.Outcome State Fault Refusal := doNothing s

/-- ZT: a stub; no response (41_host_commands.md R179). -/
def execZt (s : State) : Host.Outcome State Fault Refusal := doNothing s

/-- ZA: a stub; no response, and the ADC is not read (41_host_commands.md R180). -/
def execZa (s : State) : Host.Outcome State Fault Refusal := doNothing s

/-- SP: no handler; in particular no position is set (41_host_commands.md R181). -/
def execSp (_v : Word16) (s : State) : Host.Outcome State Fault Refusal := doNothing s

/-- YT: no handler (41_host_commands.md R181). -/
def execYt (_v : Word16) (s : State) : Host.Outcome State Fault Refusal := doNothing s

/-- DB: no handler (41_host_commands.md R181). -/
def execDb (_v : Word16) (s : State) : Host.Outcome State Fault Refusal := doNothing s

/-- A verb of no row, or no verb: ignored (41_host_commands.md R161). -/
def execUnrecognized (_verb : Option Word16) (s : State) : Host.Outcome State Fault Refusal := doNothing s

end Sys2Proof.Machine
end

