-- ==== Sys2Proof/Machine/Dispatch.lean ====
section
/-! DEFINITION. What each instruction does: Dispatch for a host verb (41_host_commands.md R160), ApplyRequest for a
channel request (43_motion_requests.md R241). -/

namespace Sys2Proof.Machine

def exec (i : Instr) (s : State) : Host.Outcome State Fault Refusal :=
  match i with
  | .fq => Sys2Proof.Machine.execFq s
  | .fg => Sys2Proof.Machine.execFg s
  | .gh => Sys2Proof.Machine.execGh s
  | .gc => Sys2Proof.Machine.execGc s
  | .gi => Sys2Proof.Machine.execGi s
  | .gn => Sys2Proof.Machine.execGn s
  | .gp => Sys2Proof.Machine.execGp s
  | .gt => Sys2Proof.Machine.execGt s
  | .gv => Sys2Proof.Machine.execGv s
  | .gd => Sys2Proof.Machine.execGd s
  | .sd v => Sys2Proof.Machine.execSd v s
  | .sf => Sys2Proof.Machine.execSf s
  | .sh => Sys2Proof.Machine.execSh s
  | .sn v => Sys2Proof.Machine.execSn v s
  | .yb v => Sys2Proof.Machine.execYb v s
  | .zb => Sys2Proof.Machine.execZb s
  | .zt => Sys2Proof.Machine.execZt s
  | .za => Sys2Proof.Machine.execZa s
  | .sp v => Sys2Proof.Machine.execSp v s
  | .yt v => Sys2Proof.Machine.execYt v s
  | .db v => Sys2Proof.Machine.execDb v s
  | .unrecognized verb => Sys2Proof.Machine.execUnrecognized verb s
  | .target v => Sys2Proof.Machine.execTarget v s
  | .stop => Sys2Proof.Machine.execStop s
  | .go => Sys2Proof.Machine.execGo s
  | .recalibrate => Sys2Proof.Machine.execRecalibrate s

end Sys2Proof.Machine
end

