-- ==== Sys2Proof/Machine/HostAgent.lean ====
section
/-! DEFINITION. The atomic steps of agent C0: GetChar (40_codec.md R130 to R135), Sending with its bounded retry and
PollFeedback (42_channel.md R211 to R213). -/

namespace Sys2Proof.Machine

/-- One host character (40_codec.md R131 to R135): the codec moves on, and a completed frame's command runs in the same
step. -/
def processChar (ch : Byte) (s : State) : Host.Outcome State Fault Refusal :=
  let fed := codecFeed s.cfg.bufCap s.c0.codec ch
  let s1 := { s with c0 := { s.c0 with codec := fed.1 } }
  match fed.2 with
  | none => .next s1
  | some buf => exec (decodeBuffer s.cfg buf) s1

/-- The end of a GetChar step (40_codec.md R130): Sending if a request is pending, else PollFeedback. -/
def leaveGetChar (s : State) : State :=
  { s with c0 := { s.c0 with phase := if s.c0.pendingSend.isSome then .sending else .pollFeedback } }

/-- The GetChar step (40_codec.md R130). -/
def getCharStep (s : State) : Host.Outcome State Fault Refusal :=
  match nextChar s with
  | none => .next (leaveGetChar s)
  | some ch => thenDo (processChar ch s) leaveGetChar

/-- The end of a send, put or dropped: C0 moves on to PollFeedback (42_channel.md R211, R212). -/
def sendDone (s : State) : State :=
  { s with c0 := { s.c0 with pendingSend := none, sendAttempts := 0, phase := .pollFeedback } }

/-- A failed attempt to put `w` (42_channel.md R211, R212): counted, and given up at SEND_RETRY_LIMIT. -/
def sendFailed (w : Word32) (s : State) : State :=
  if s.c0.sendAttempts + 1 = s.cfg.sendRetryLimit then sendDone (logDrop (.droppedRequest w) s)
  else { s with c0 := { s.c0 with sendAttempts := s.c0.sendAttempts + 1 } }

/-- The Sending step (42_channel.md R211). With nothing pending, which no run reaches, C0 moves on to PollFeedback
(10_state.md R38; log 14). -/
def sendingStep (s : State) : State :=
  match s.c0.pendingSend with
  | none => { s with c0 := { s.c0 with phase := .pollFeedback } }
  | some w =>
    match slotTryPut s.chan w with
    | (true, slot) => sendDone { s with chan := slot }
    | (false, _) => sendFailed w s

/-- The PollFeedback step (42_channel.md R213). -/
def pollFeedbackStep (s : State) : State :=
  match slotTake s.fb with
  | (none, slot) => { s with fb := slot, c0 := { s.c0 with phase := .getChar } }
  | (some w, slot) =>
    { s with
      fb := slot
      c0 := { s.c0 with hostPosition := reportCurrent w, hostTarget := reportTarget w, phase := .getChar } }

/-- C0's step by its phase (10_state.md R38). -/
def c0Step (s : State) : Host.Outcome State Fault Refusal :=
  match s.c0.phase with
  | .getChar => getCharStep s
  | .sending => .next (sendingStep s)
  | .pollFeedback => .next (pollFeedbackStep s)

end Sys2Proof.Machine
end

