-- ==== Sys2Proof/Machine/Intervalometer.lean ====
section
/-! DEFINITION. The intervalometer (spec/46_intervalometer.md): the click waveform, the service of a click and C1's
Imaging step. -/

namespace Sys2Proof.Machine

/-- One IR pulse: high, hold, low, hold (46_intervalometer.md R326). -/
def irPulse (us : Nat) (s : State) : State :=
  hold us (setPin .ir false (hold us (setPin .ir true s)))

/-- `n` IR pulses in a row (46_intervalometer.md R326). -/
def irBurst (us : Nat) : Nat → State → State
  | 0, s => s
  | n + 1, s => irBurst us n (irPulse us s)

/-- `n` bursts with the gap between consecutive ones and none after the last (46_intervalometer.md R326). -/
def irBursts (pulses us gapUs : Nat) : Nat → State → State
  | 0, s => s
  | 1, s => irBurst us pulses s
  | n + 2, s => irBursts pulses us gapUs (n + 1) (hold gapUs (irBurst us pulses s))

/-- FireClick (46_intervalometer.md R326). -/
def fireClick (s : State) : State := irBursts s.cfg.irPulses s.cfg.irPulseUs s.cfg.irGapUs s.cfg.irBursts s

/-- What a click arms, after `shutterOpen` was toggled (46_intervalometer.md R322): the exposure when the shutter is
open, else the pause when the switch is active, else nothing and the session ends. -/
def armAfterClick (sw : Bool) (s : State) : State :=
  if s.imaging.shutterOpen then scheduleAlarm s.cfg.exposureMs .exposure s
  else if sw then scheduleAlarm s.cfg.pauseMs .pause s
  else { s with imaging := { s.imaging with started := false } }

/-- ServiceClick(sw) (46_intervalometer.md R322). -/
def serviceClick (sw : Bool) (s : State) : State :=
  let s1 := fireClick { s with imaging := { s.imaging with clickRequired := false } }
  armAfterClick sw { s1 with imaging := { s1.imaging with shutterOpen := !s1.imaging.shutterOpen } }

/-- A session starts when the switch is active and none runs (46_intervalometer.md R321). -/
def armSession (sw : Bool) (m : ImagingState) : ImagingState :=
  if sw && !m.started then { m with started := true, clickRequired := true } else m

/-- The Imaging step (46_intervalometer.md R320, R321). -/
def imagingStep (s : State) : State :=
  if s.cfg.hasIntervalometer then
    let sw := getPin .imgSwitch s
    let s1 := { s with imaging := armSession sw s.imaging }
    let s2 := if s1.imaging.clickRequired then serviceClick sw s1 else s1
    { s2 with c1 := { s2.c1 with phase := .poll } }
  else { s with c1 := { s.c1 with phase := .poll } }

end Sys2Proof.Machine
end

