-- ==== Sys2Proof/Machine/Stepping.lean ====
section
/-! DEFINITION. The Motion step and the Pulse step of C1 (spec/44_stepping.md): batch start, the pulse with its ramp, the
end of a pulse, and reaching the target. -/

namespace Sys2Proof.Machine

/-- ReachTarget (44_stepping.md R278). -/
def reachTarget (s : State) : State :=
  reportFinal (scheduleAlarm s.cfg.cooldownMs .cooldown { s with motor := { s.motor with mode := .idle } })

/-- The Motion step (44_stepping.md R274). -/
def motionStep (s : State) : State :=
  if s.motor.mode = .stepping then
    let s1 := { s with c1 := { s.c1 with batchCount := 0 } }
    if s1.motor.currentPosition = s1.motor.targetPosition then reachTarget s1
    else { s1 with c1 := { s1.c1 with phase := .pulsing } }
  else { s with c1 := { s.c1 with phase := .override } }

/-- The interval after the ramp (44_stepping.md R276). -/
def rampInterval (floorMs stepMs interval : Word32) : Word32 :=
  if floorMs.toNat < interval.toNat then interval - stepMs else interval

/-- The Defect check before a pulse (44_stepping.md R275): the direction disagrees with the positions. -/
def directionDefect (m : MotorState) : Bool :=
  match m.direction with
  | .forward => decide (m.targetPosition.toNat ≤ m.currentPosition.toNat)
  | .reverse => decide (m.currentPosition.toNat ≤ m.targetPosition.toNat)

/-- The position after one pulse, mod 2^16 (44_stepping.md R275). -/
def pulsedPosition (d : Direction) (p : Position) : Position :=
  match d with
  | .forward => p + 1
  | .reverse => p - 1

/-- The pulse on the STEP pin: high, hold, low, hold, each half stepIntervalMs long (44_stepping.md R275). -/
def stepPulse (s : State) : State :=
  let d := s.motor.stepIntervalMs.toNat * 1000
  hold d (setPin .step false (hold d (setPin .step true s)))

/-- The registers after a pulse: position, steps remaining, batch count, ramp (44_stepping.md R275, R276). -/
def pulseRegisters (s : State) : State :=
  { s with
    motor :=
      { s.motor with
        currentPosition := pulsedPosition s.motor.direction s.motor.currentPosition
        stepsRemaining := s.motor.stepsRemaining - 1
        stepIntervalMs := rampInterval s.cfg.rampFloorMs s.cfg.rampStepMs s.motor.stepIntervalMs }
    c1 := { s.c1 with batchCount := s.c1.batchCount + 1 } }

/-- EndOfPulse (44_stepping.md R277). -/
def endOfPulse (s : State) : State :=
  if s.motor.currentPosition = s.motor.targetPosition then reachTarget s
  else if s.c1.batchCount = s.cfg.batchSize then
    let s1 := reportIntermediate s
    { s1 with c1 := { s1.c1 with phase := .override } }
  else { s with c1 := { s.c1 with phase := .pulsing } }

/-- The Pulse step (44_stepping.md R275). A Defect is recorded before the step writes anything else. -/
def pulseStep (s : State) : State :=
  if directionDefect s.motor then raiseDefect .directionInconsistent s
  else endOfPulse (pulseRegisters (stepPulse s))

end Sys2Proof.Machine
end

