-- ==== Sys2Proof/Machine/MotorAgent.lean ====
section
/-! DEFINITION. The atomic steps of agent C1 (44_stepping.md R270): Override (45_manual_override.md R300), Poll
(42_channel.md R214), FinalReport (R217), and the step C1's phase names. -/

namespace Sys2Proof.Machine

/-- What the two buttons start (45_manual_override.md R300): exactly one active moves the target OVERRIDE_STEP away from
the current position; a decrease below OVERRIDE_STEP has no effect. -/
def overrideMotion (inc dec : Bool) (s : State) : State :=
  if inc && !dec then startMotion (s.motor.currentPosition + s.cfg.overrideStep) s
  else if dec && !inc then
    if s.cfg.overrideStep.toNat ≤ s.motor.currentPosition.toNat then
      startMotion (s.motor.currentPosition - s.cfg.overrideStep) s
    else s
  else s

/-- The Override step (45_manual_override.md R300): the settle hold follows every evaluation. -/
def overrideStep (s : State) : State :=
  let s1 := hold (s.cfg.settleMs * 1000) (overrideMotion (getPin .btnInc s) (getPin .btnDec s) s)
  { s1 with c1 := { s1.c1 with phase := .imaging } }

/-- The Poll step (42_channel.md R214): C1 goes on to Motion, and a word found is decoded and applied. -/
def pollStep (s : State) : Host.Outcome State Fault Refusal :=
  match slotTake s.chan with
  | (none, slot) => .next { s with chan := slot, c1 := { s.c1 with phase := .motion } }
  | (some w, slot) => exec (decodeChannelWord w) { s with chan := slot, c1 := { s.c1 with phase := .motion } }

/-- The FinalReport step (42_channel.md R217): C1 holds while `fb` is full; else it puts the report and goes on at
Override. A hold changes nothing (log 3). -/
def finalReportStep (s : State) : State :=
  if slotFull s.fb then s
  else { s with fb := (slotTryPut s.fb s.c1.pendingFinal).2, c1 := { s.c1 with phase := .override } }

/-- C1's step by its phase (10_state.md R28, 44_stepping.md R270). -/
def c1Step (s : State) : Host.Outcome State Fault Refusal :=
  match s.c1.phase with
  | .override => .next (overrideStep s)
  | .imaging => .next (imagingStep s)
  | .poll => pollStep s
  | .motion => .next (motionStep s)
  | .pulsing => .next (pulseStep s)
  | .finalReport => .next (finalReportStep s)

end Sys2Proof.Machine
end

