-- ==== Sys2Proof/Machine/Fetch.lean ====
section
/-! DEFINITION. One step of the block (the agent the turn names takes its step), and how an instruction is placed where
the next step takes it: a verb as the kept buffer of a frame whose `#` arrives, a channel word in `chan` (log 20). -/

namespace Sys2Proof.Machine

/-- The step of the agent the turn names (00_scope.md R5). -/
def agentStep (s : State) : Host.Outcome State Fault Refusal :=
  match s.env.turn.agent with
  | .c0 => c0Step s
  | .c1 => c1Step s
  | .irq => .next (fireStep s)

/-- One step: once a Defect is recorded no agent takes any (60_exceptions.md R402; log 11); else the agent's step, and
the next turn. -/
def blockStep (s : State) : Host.Outcome State Fault Refusal :=
  match s.faults with
  | [] => thenDo (agentStep s) advance
  | r :: _ => .fault (.defect r)

/-- C0 at GetChar inside a frame whose kept characters are `buf`, about to read `#` (log 20). -/
def placeFrame (buf : List Byte) (s : State) : State :=
  { s with
    env := { s.env with turn := { s.env.turn with agent := .c0, char := some 0x23 } }
    c0 := { s.c0 with codec := { rxBuf := buf, inFrame := true }, phase := .getChar } }

/-- C1 at Poll with `w` in `chan`, about to take it (log 20). -/
def placeWord (w : Word32) (s : State) : State :=
  { s with
    env := { s.env with turn := { s.env.turn with agent := .c1 } }
    c1 := { s.c1 with phase := .poll }
    chan := some w }

/-- Placing an instruction of `nbits` bits numbered as spec/opcode_table.json numbers them (log 20, log 21). -/
def placeTableWord (nbits w : Nat) (s : State) : State :=
  if nbits ≤ 16 then placeFrame (tableVerbBuffer w) s else placeWord (BitVec.ofNat 32 w) s

end Sys2Proof.Machine
end

