-- ==== Sys2Proof/Machine/Step.lean ====
section
/-! DEFINITION. The machine's step, and an instruction placed where the next step takes it. -/

namespace Sys2Proof.Machine

/-- One atomic step of one agent (00_scope.md R5). -/
def step (s : State) : Host.Outcome State Fault Refusal := blockStep s

/-- The state with a table word placed so that the very next step runs it (log 20). -/
def State.withFetchWord (s : State) (nbits w : Nat) : State := placeTableWord nbits w s

end Sys2Proof.Machine
end

