-- ==== Sys2Proof/Machine/Flags.lean ====
section
/-! DEFINITION. The status values the spec names that are not independent state, computed from the registers that are:
stepping (10_state.md R24), imgPhase (R32), rxLen (R33), and the bit codes of mode and direction (R21, R26). The block has
no arithmetic flags. -/

namespace Sys2Proof.Machine

/-- stepping (10_state.md R24). -/
def stepping (s : State) : Bool := decide (s.motor.mode = .stepping)

/-- rxLen (10_state.md R33). -/
def rxLen (s : State) : Nat := s.c0.codec.rxBuf.length

/-- The document's intervalometer states (10_state.md R32). -/
inductive ImgPhase where
  | idle
  | shutterOpen
  | pauseAfterClose
deriving DecidableEq, Repr

/-- imgPhase (10_state.md R32). -/
def imgPhase (s : State) : ImgPhase :=
  if s.imaging.started then (if s.imaging.shutterOpen then .shutterOpen else .pauseAfterClose) else .idle

/-- The 2-bit code of `mode` (10_state.md R21). -/
def modeCode : EngineMode → BitVec 2
  | .idle => 0
  | .stepping => 1
  | .stopped => 2

/-- The 1-bit code of `direction` (10_state.md R26). -/
def directionCode : Direction → BitVec 1
  | .forward => 1
  | .reverse => 0

end Sys2Proof.Machine
end

