-- ==== Sys2Proof/Safety.lean ====
section
/-! DEFINITION. The terms claims are stated in: the invariant every step keeps (10_state.md R46, R47 and the ranges of
R21 to R44, carried from iteration boundaries to every step boundary), the levels the pin trace says, the click count,
quiescence (70_reset_and_hazards.md R453), what each agent may not write (10_state.md R45), running a machine over
several turns, and weakly fair runs (00_scope.md R6). -/

namespace Sys2Proof.Machine

/-! ## The invariant -/

/-- The motor engine and C1's sequencer agree (10_state.md R21, R25 to R30, R46; 44_stepping.md R283; 42_channel.md
R217). -/
structure MotorInv (s : State) : Prop where
  /-- R46 item 1: Stopped is never entered. -/
  neverStopped : s.motor.mode ≠ .stopped
  /-- R46 item 2. -/
  idleAtTarget : s.motor.mode = .idle → s.motor.currentPosition = s.motor.targetPosition ∧ s.motor.stepsRemaining = 0
  /-- R46 item 3: the steps left are the distance. -/
  stepsLeft : s.motor.mode = .stepping →
    s.motor.stepsRemaining.toNat = distance s.motor.targetPosition s.motor.currentPosition
  /-- R46 item 3: Forward exactly when the target lies above. -/
  headsForTarget : s.motor.mode = .stepping → s.motor.currentPosition ≠ s.motor.targetPosition →
    (s.motor.direction = .forward ↔ s.motor.currentPosition.toNat < s.motor.targetPosition.toNat)
  /-- R46, last paragraph: a motion with nothing to do lives only until the Motion step of its iteration. -/
  zeroMoveIsTransient : s.motor.mode = .stepping → s.motor.currentPosition = s.motor.targetPosition →
    s.c1.phase = .imaging ∨ s.c1.phase = .poll ∨ s.c1.phase = .motion
  /-- R25: the interval is on the ramp's grid, between the floor and the maximum. -/
  intervalOnRamp : s.cfg.rampFloorMs.toNat ≤ s.motor.stepIntervalMs.toNat ∧
    s.motor.stepIntervalMs.toNat ≤ s.cfg.rampMaxMs.toNat ∧
    (s.motor.stepIntervalMs.toNat - s.cfg.rampFloorMs.toNat) % s.cfg.rampStepMs.toNat = 0
  /-- R29. -/
  batchBounded : s.c1.batchCount ≤ s.cfg.batchSize
  /-- A batch runs only while Stepping, and is not full. -/
  pulsingInBatch : s.c1.phase = .pulsing → s.motor.mode = .stepping ∧ s.c1.batchCount < s.cfg.batchSize
  /-- R217: the report C1 holds is of an ended motion. -/
  finalReportOfEnd : s.c1.phase = .finalReport → s.motor.mode = .idle ∧ s.c1.pendingFinal = fbWord s

/-- How many Exposure and Pause alarms are armed (10_state.md R47). -/
def imagingAlarms (alarms : List Alarm) : Nat := alarms.countP (fun a => decide (a.kind ≠ .cooldown))

/-- The intervalometer (10_state.md R47; 46_intervalometer.md R320, R328). -/
structure ImagingInv (s : State) : Prop where
  /-- R320: without the intervalometer nothing ever starts. -/
  absent : s.cfg.hasIntervalometer = false → s.imaging.started = false
  /-- R328: no session. -/
  noSession : s.imaging.started = false →
    s.imaging.shutterOpen = false ∧ s.imaging.clickRequired = false ∧ imagingAlarms s.alarms = 0
  /-- R328: a session waits for exactly one of a click and an alarm. -/
  session : s.imaging.started = true →
    (s.imaging.clickRequired = true ∧ imagingAlarms s.alarms = 0) ∨
    (s.imaging.clickRequired = false ∧ imagingAlarms s.alarms = 1)

/-- The delay every alarm of a kind is armed with (44_stepping.md R278; 46_intervalometer.md R322). -/
def armedDelay (c : Config) : AlarmKind → Nat
  | .cooldown => c.cooldownMs
  | .exposure => c.exposureMs
  | .pause => c.pauseMs

/-- The alarm multiset is in its sorted form (log 12) and each alarm has its kind's delay. -/
structure AlarmInv (s : State) : Prop where
  sorted : alarmsSorted s.alarms = true
  delays : ∀ a ∈ s.alarms, a.delayMs = armedDelay s.cfg a.kind

/-- A channel word as C0 writes it: reserved bits and an unused VALUE are 0 (30_encoding.md R98). -/
def canonicalRequest (w : Word32) : Prop := encodeRequest (decodeRequest w) = w

/-- C0's registers and the words on their way to C1 (10_state.md R33, R37, R38; 30_encoding.md R98). -/
structure HostInv (s : State) : Prop where
  /-- R33: at most BUF_CAP characters. -/
  bufferBounded : s.c0.codec.rxBuf.length ≤ s.cfg.bufCap
  /-- R33: each in `0-9A-Z`. -/
  bufferKept : ∀ c ∈ s.c0.codec.rxBuf, isDataChar c = true
  /-- R33: nothing is kept outside a frame. -/
  emptyOutside : s.c0.codec.inFrame = false → s.c0.codec.rxBuf = []
  /-- R38: C0 is in Sending exactly while a request is pending. -/
  sendingIffPending : s.c0.phase = .sending ↔ s.c0.pendingSend ≠ none
  /-- R37. -/
  attemptsBounded : s.c0.sendAttempts < s.cfg.sendRetryLimit
  /-- R37: no attempts without a request. -/
  attemptsReset : s.c0.pendingSend = none → s.c0.sendAttempts = 0
  /-- R98. -/
  pendingCanonical : ∀ w, s.c0.pendingSend = some w → canonicalRequest w
  /-- R98. -/
  chanCanonical : ∀ w, s.chan = some w → canonicalRequest w

/-- A motion has been started since reset: StartMotion alone drives DIR (43_motion_requests.md R240). -/
def motionHasRun (s : State) : Prop := ∃ level, PinEvent.pin .dir level ∈ s.pinTrace

/-- Pin levels at a step boundary: a pulse and a click end low (44_stepping.md R275; 46_intervalometer.md R326), a motion's
DIR pin shows its direction (43_motion_requests.md R240), and a motion that is over has STOP asserted or a Cooldown to do
it (44_stepping.md R278, R279; 43_motion_requests.md R244). -/
structure PinInv (s : State) : Prop where
  stepLow : s.pins.step = false
  irLow : s.pins.ir = false
  dirShown : s.motor.mode = .stepping → s.pins.dir = isForward s.motor.direction
  stopComes : s.motor.mode = .idle → motionHasRun s → s.pins.stop = true ∨ ∃ a ∈ s.alarms, a.kind = .cooldown

/-- The invariant of the block: it holds after reset and every step keeps it. -/
structure Inv (s : State) : Prop where
  config : s.cfg.wellFormed = true
  table : s.cfg.meetsTable = true
  noFault : s.faults = []
  motor : MotorInv s
  imaging : ImagingInv s
  alarms : AlarmInv s
  host : HostInv s
  pins : PinInv s

/-! ## What the traces say -/

/-- The level of a pin after a trace of events, from a level before it (20_memory.md R71, R72). -/
def tracedLevel (id : OutPin) (before : Bool) (trace : List PinEvent) : Bool :=
  trace.foldl (fun level e =>
    match e with
    | .pin i l => if i = id then l else level
    | .hold _ => level) before

/-- The pins' levels at reset (10_state.md R48). -/
def resetLevel (c : Config) : OutPin → Bool
  | .step => false
  | .dir => c.dirPinAtReset
  | .stop => c.stopLineAtReset
  | .ir => false

/-- Every pin has the level its last event in pinTrace gave it, or its reset level (20_memory.md R71, R72). -/
def PinsFollowTrace (s : State) : Prop :=
  ∀ id, pinLevel id s.pins = tracedLevel id (resetLevel s.cfg id) s.pinTrace

/-- How often the IR pin was driven high. -/
def irHighs (trace : List PinEvent) : Nat := trace.countP (fun e => decide (e = .pin .ir true))

/-- The clicks so far are even in number exactly when shutterOpen is false (46_intervalometer.md R328); a click drives IR
high IR_BURSTS × IR_PULSES times (R326). -/
def ClicksMatchShutter (s : State) : Prop :=
  ∃ clicks : Nat, irHighs s.pinTrace = clicks * (s.cfg.irBursts * s.cfg.irPulses) ∧
    (clicks % 2 = 0 ↔ s.imaging.shutterOpen = false)

/-- The Hold durations of a trace, summed, in microseconds. -/
def holdSum (trace : List PinEvent) : Nat :=
  (trace.map (fun e => match e with | .hold us => us | .pin _ _ => 0)).sum

/-- How often the STEP pin was driven high: the step pulses emitted. -/
def stepPulses (trace : List PinEvent) : Nat := trace.countP (fun e => decide (e = .pin .step true))

/-! ## Quiescence -/

/-- The conditions of 70_reset_and_hazards.md R453 on the block's state; that the host has nothing more to deliver is the
environment's part. -/
def Quiescent (s : State) : Prop :=
  s.c0.phase = .getChar ∧ s.c0.pendingSend = none ∧ s.c0.codec.inFrame = false ∧
  s.chan = none ∧ s.fb = none ∧ s.c1.phase = .override ∧ s.motor.mode = .idle ∧ s.alarms = [] ∧
  (s.cfg.hasIntervalometer = true → s.imaging.started = false)

/-- The inputs of a turn are inactive and the host delivers nothing (70_reset_and_hazards.md R453). -/
def quietTurn (t : Turn) : Prop := t.char = none ∧ t.btnInc = false ∧ t.btnDec = false ∧ t.imgSwitch = false

/-- R453 but for which step of their loops C0 and C1 are at (log 25): nothing is under way, and STOP is asserted if a motion
has run (70_reset_and_hazards.md R454). -/
def AtRest (s : State) : Prop :=
  s.c0.phase ≠ .sending ∧ s.c0.pendingSend = none ∧ s.c0.codec.inFrame = false ∧ s.chan = none ∧ s.fb = none ∧
  s.c1.phase ≠ .pulsing ∧ s.c1.phase ≠ .finalReport ∧ s.motor.mode = .idle ∧ s.alarms = [] ∧
  s.imaging.started = false ∧ (motionHasRun s → s.pins.stop = true)

/-! ## Ownership (10_state.md R45) -/

/-- What only C0 writes is the same in both states, its character output among it. -/
def SameHostSide (s t : State) : Prop := t.c0 = s.c0 ∧ t.hostOut = s.hostOut

/-- What only C1 and IRQ write is the same in both states. -/
def SameMotorSide (s t : State) : Prop :=
  t.motor = s.motor ∧ t.c1 = s.c1 ∧ t.imaging = s.imaging ∧ t.pins = s.pins ∧ t.alarms = s.alarms ∧
  t.pinTrace = s.pinTrace ∧ t.faults = s.faults

/-! ## Runs -/

/-- `k` steps, stopping at the first fault or refusal. -/
def runSteps : Nat → State → Host.Outcome State Fault Refusal
  | 0, s => .next s
  | k + 1, s =>
    match step s with
    | .next t => runSteps k t
    | .fault r => .fault r
    | .refused r => .refused r

/-- The next `k` turns are an agent's: the turn now and the first ones of the script. -/
def agentHasTurns (a : Agent) (k : Nat) (s : State) : Prop :=
  k ≤ s.env.script.length + 1 ∧ ∀ t ∈ (s.env.turn :: s.env.script).take k, t.agent = a

/-! ## Weakly fair runs (00_scope.md R6; log 4) -/

/-- The state with its next step's turn replaced. -/
def underTurn (t : Turn) (s : State) : State := { s with env := { s.env with turn := t } }

/-- The run from `s` in which `turns` says who moves and what every draw answers; a stop repeats its state. -/
def runUnder (turns : Nat → Turn) (s : State) : Nat → State
  | 0 => s
  | n + 1 =>
    match step (underTurn (turns n) (runUnder turns s n)) with
    | .next t => t
    | .fault _ => runUnder turns s n
    | .refused _ => runUnder turns s n

/-- An agent's step is enabled: C0's always, C1's but for the hold of a final report (42_channel.md R217), IRQ's when an
alarm is armed (60_exceptions.md R406). -/
def enabled : Agent → State → Prop
  | .c0, _ => True
  | .c1, s => ¬ (s.c1.phase = .finalReport ∧ s.fb ≠ none)
  | .irq, s => s.alarms ≠ []

/-- Weak fairness (00_scope.md R6): every agent moves again and again unless its step is again and again not enabled, and
every armed alarm eventually fires. -/
structure WeaklyFair (turns : Nat → Turn) (s : State) : Prop where
  agents : ∀ a n, ∃ m, n ≤ m ∧ ((turns m).agent = a ∨ ¬ enabled a (runUnder turns s m))
  alarms : ∀ n, ∀ x ∈ (runUnder turns s n).alarms, ∃ m, n ≤ m ∧ (turns m).agent = .irq ∧
    (runUnder turns s m).alarms[firingIndex (underTurn (turns m) (runUnder turns s m))]? = some x

end Sys2Proof.Machine
end

