-- ==== Sys2Proof/Certificates/Slice0/Obligations.lean ====
section
/-! DEFINITION. The statements for the provers, from the numbered rules of spec/, family by family: encodings, the codec,
host commands, channel operations, motion requests, stepping, override, intervalometer, alarms, reset, and the rules about
the whole machine. Their witnesses stand in Tests/Slice0.lean. -/

open Sys2Proof Sys2Proof.Machine

/-! ## Encodings -/

/-- Decode and encode agree, for every well-formed instruction with every operand, in every configuration whose BUF_CAP
and PAYLOAD_DIGITS leave room for four digits and whose VALUE_VERBS hold the six stated ones (30_encoding.md sections 1,
3, 5, 6). -/
def Obligations.DecodeOfEncode : Prop :=
  ∀ (c : Config) (i : Instr), 6 ≤ c.bufCap → 4 ≤ c.payloadDigits → (∀ verb ∈ statedValueVerbs, verb ∈ c.valueVerbs) →
    i.wellFormed = true → decode c (encode i) = .ok i

/-- A few words written out from 30_encoding.md sections 3 and 5 decode to what they stand for (a word's bits are laid out
as spec/opcode_table.json numbers them: log 21). -/
def Obligations.SampleWordsDecode : Prop :=
  decodeTableWord 16 0x4651 = some .fq ∧ decodeTableWord 16 0x4754 = some .gt ∧
  decodeTableWord 16 0x534E = some (.sn 0) ∧ decodeTableWord 16 0x5A41 = some .za ∧
  decodeTableWord 32 0x00000100 = some (.target 256) ∧ decodeTableWord 32 0x00010000 = some .stop ∧
  decodeTableWord 32 0x00020000 = some .go ∧ decodeTableWord 32 0x00030000 = some .recalibrate

/-- 30_encoding.md R97: the channel word of each request, reserved bits and unused VALUE 0. -/
def Obligations.ChannelWordLayout : Prop :=
  (∀ v : Position, (encodeRequest (.target v)).toNat = v.toNat) ∧
  encodeRequest .stop = 0x00010000 ∧ encodeRequest .go = 0x00020000 ∧ encodeRequest .recalibrate = 0x00030000

/-- 30_encoding.md section 3: a channel word decodes by KIND, bits 17:16, alone, whatever stands in the reserved bits, and
in VALUE for KIND 1 to 3. -/
def Obligations.ChannelWordDecodesByKind : Prop :=
  ∀ w : Word32,
    (w.toNat / 65536 % 4 = 0 → decodeChannelWord w = .target (BitVec.ofNat 16 w.toNat)) ∧
    (w.toNat / 65536 % 4 = 1 → decodeChannelWord w = .stop) ∧
    (w.toNat / 65536 % 4 = 2 → decodeChannelWord w = .go) ∧
    (w.toNat / 65536 % 4 = 3 → decodeChannelWord w = .recalibrate)

/-- 30_encoding.md R99: the feedback word is target over current, taken from the engine's registers, and each half comes
back out. -/
def Obligations.FeedbackWordLayout : Prop :=
  (∀ s : State, (fbWord s).toNat = s.motor.targetPosition.toNat * 65536 + s.motor.currentPosition.toNat) ∧
  (∀ t c : Position, reportTarget (encodeReport t c) = t ∧ reportCurrent (encodeReport t c) = c) ∧
  encodeReport 100 40 = 0x00640028

/-- 30_encoding.md section 5: a kept buffer is decoded by its first two characters alone. The verbs of no value ignore
what follows, those of VALUE_VERBS take at most PAYLOAD_DIGITS characters of it as their value, one that is not among
VALUE_VERBS has value 0, and every other verb, or none, is the fallback. -/
def Obligations.VerbsDecodeByTwoCharacters : Prop :=
  ∀ c : Config,
  (∀ rest : List Byte,
    decodeBuffer c (0x46 :: 0x51 :: rest) = .fq ∧ decodeBuffer c (0x46 :: 0x47 :: rest) = .fg ∧
    decodeBuffer c (0x47 :: 0x48 :: rest) = .gh ∧ decodeBuffer c (0x47 :: 0x43 :: rest) = .gc ∧
    decodeBuffer c (0x47 :: 0x49 :: rest) = .gi ∧ decodeBuffer c (0x47 :: 0x4E :: rest) = .gn ∧
    decodeBuffer c (0x47 :: 0x50 :: rest) = .gp ∧ decodeBuffer c (0x47 :: 0x54 :: rest) = .gt ∧
    decodeBuffer c (0x47 :: 0x56 :: rest) = .gv ∧ decodeBuffer c (0x47 :: 0x44 :: rest) = .gd ∧
    decodeBuffer c (0x53 :: 0x46 :: rest) = .sf ∧ decodeBuffer c (0x53 :: 0x48 :: rest) = .sh ∧
    decodeBuffer c (0x5A :: 0x42 :: rest) = .zb ∧ decodeBuffer c (0x5A :: 0x54 :: rest) = .zt ∧
    decodeBuffer c (0x5A :: 0x41 :: rest) = .za) ∧
  (∀ (b0 b1 : Byte) (rest : List Byte) (v : Word16),
    v = (if verb16 b0 b1 ∈ c.valueVerbs then BitVec.ofNat 16 (hexValue (rest.take c.payloadDigits)) else 0) →
      (b0 = 0x53 → b1 = 0x44 → decodeBuffer c (b0 :: b1 :: rest) = .sd v) ∧
      (b0 = 0x53 → b1 = 0x4E → decodeBuffer c (b0 :: b1 :: rest) = .sn v) ∧
      (b0 = 0x59 → b1 = 0x42 → decodeBuffer c (b0 :: b1 :: rest) = .yb v) ∧
      (b0 = 0x53 → b1 = 0x50 → decodeBuffer c (b0 :: b1 :: rest) = .sp v) ∧
      (b0 = 0x59 → b1 = 0x54 → decodeBuffer c (b0 :: b1 :: rest) = .yt v) ∧
      (b0 = 0x44 → b1 = 0x42 → decodeBuffer c (b0 :: b1 :: rest) = .db v)) ∧
  (∀ (b0 b1 : Byte) (rest : List Byte), verb16 b0 b1 ∉ rowVerbs →
    decodeBuffer c (b0 :: b1 :: rest) = .unrecognized (some (verb16 b0 b1))) ∧
  (∀ buf : List Byte, buf.length < 2 → decodeBuffer c buf = .unrecognized none) ∧
  params.valueVerbs = [0x534E, 0x5350, 0x5954, 0x5942, 0x4442, 0x5344] ∧ params.payloadDigits = 4

/-- 40_codec.md section 3: HexValue is 0 for the empty payload and for one with a character that is no hex digit; it takes
digits left to right, so appending a digit multiplies by 16 and adds it; and four digits stay below 2^16. -/
def Obligations.HexValueReadsDigits : Prop :=
  (∀ c : Byte, ∀ d : Nat, hexDigitValue c = some d ↔
    (0x30 ≤ c.toNat ∧ c.toNat ≤ 0x39 ∧ d = c.toNat - 0x30) ∨ (0x41 ≤ c.toNat ∧ c.toNat ≤ 0x46 ∧ d = c.toNat - 0x41 + 10)) ∧
  hexValue [] = 0 ∧
  (∀ p : List Byte, (∃ c ∈ p, hexDigitValue c = none) → hexValue p = 0) ∧
  (∀ (p : List Byte) (c : Byte) (d : Nat), (∀ e ∈ p, hexDigitValue e ≠ none) → hexDigitValue c = some d →
    hexValue (p ++ [c]) = hexValue p * 16 + d) ∧
  (∀ p : List Byte, p.length ≤ 4 → hexValue p ≤ 0xFFFF)

/-- 40_codec.md section 3: the Command record of a buffer, with the verb's number, the value zero-extended to 32 bits (as
long as PAYLOAD_DIGITS digits fit in them), and `present` exactly for a value-bearing verb with a payload character. -/
def Obligations.ParseBuildsCommand : Prop :=
  (∀ (c : Config) (buf : List Byte), buf.length < 2 →
    parse c buf = { verb := none, value := 0, present := false }) ∧
  (∀ (c : Config) (b0 b1 : Byte) (rest : List Byte),
    (∃ verb, (parse c (b0 :: b1 :: rest)).verb = some verb ∧ verb.toNat = b0.toNat * 256 + b1.toNat) ∧
    (verb16 b0 b1 ∈ c.valueVerbs →
      (c.payloadDigits ≤ 8 → (parse c (b0 :: b1 :: rest)).value.toNat = hexValue (rest.take c.payloadDigits)) ∧
      ((parse c (b0 :: b1 :: rest)).present = true ↔ rest ≠ [])) ∧
    (verb16 b0 b1 ∉ c.valueVerbs →
      (parse c (b0 :: b1 :: rest)).value = 0 ∧ (parse c (b0 :: b1 :: rest)).present = false))

/-- 40_codec.md section 4 (20_memory.md section 2): the hex digits of a response read back as the value, most significant
first, for every value of the field; a HEX4 response is the four digits of the value's low 16 bits, two's complement, and
`#`, a HEX2 response the two digits of its low 8 bits and `#`; and every digit is the uppercase one of its nibble. -/
def Obligations.HexResponsesReadBack : Prop :=
  (∀ v : Int, fmtHex4 v = hexDigits4 (BitVec.ofInt 16 v) ++ [0x23] ∧ fmtHex2 v = hexDigits2 (BitVec.ofInt 8 v) ++ [0x23]) ∧
  (∀ v : Int, (hexValue ((fmtHex4 v).take 4) : Int) = v % 65536 ∧ (hexValue ((fmtHex2 v).take 2) : Int) = v % 256) ∧
  (∀ v : Word16, hexValue (hexDigits4 v) = v.toNat) ∧ (∀ v : BitVec 8, hexValue (hexDigits2 v) = v.toNat) ∧
  (∀ v : Int, (fmtHex4 v).length = 5 ∧ (fmtHex2 v).length = 3) ∧
  (∀ d : BitVec 4, (hexChar d).toNat = if d.toNat < 10 then 0x30 + d.toNat else 0x41 + (d.toNat - 10)) ∧
  (∀ v : Int, ∀ c ∈ fmtHex4 v ++ fmtHex2 v, c = 0x23 ∨ ∃ d : BitVec 4, c = hexChar d)

/-! ## The codec -/

/-- 40_codec.md section 2: from a buffer within BUF_CAP, no stream of characters ever makes it longer, and only characters
of `0-9A-Z` are kept. -/
def Obligations.BufferNeverOverflows : Prop :=
  ∀ (cap : Nat) (c : Codec) (chars : List Byte), c.rxBuf.length ≤ cap → (∀ b ∈ c.rxBuf, isDataChar b = true) →
    (chars.foldl (fun k ch => (codecFeed cap k ch).1) c).rxBuf.length ≤ cap ∧
    ∀ b ∈ (chars.foldl (fun k ch => (codecFeed cap k ch).1) c).rxBuf, isDataChar b = true

/-- 30_encoding.md section 1: a frame keeps the first BUF_CAP data characters between its `:` and its `#`, whatever
codec state it starts in, and dispatches their instruction once. -/
def Obligations.FrameKeepsFirstDataCharacters : Prop :=
  ∀ (c : Config) (k : Codec) (body : List Byte), (∀ ch ∈ body, ch ≠ 0x3A ∧ ch ≠ 0x23) →
    decodeStream c k (0x3A :: (body ++ [0x23])) = [decodeBuffer c ((body.filter isDataChar).take c.bufCap)]

/-- 40_codec.md R133, R134: a data character, code 0x30 to 0x39 or 0x41 to 0x5A, outside a frame, and any character of
class OTHER, every code that is neither those nor `:` nor `#`, changes nothing; so `XY:GP#` and `:G P#` dispatch GP,
`:S N 0 1 0 0#` is `:SN0100#`, `:gp#` has no verb, and `GP#` dispatches nothing. -/
def Obligations.IgnoredCharactersChangeNothing : Prop :=
  ∀ (s : State) (ch : Byte),
    (charClass ch = .data ↔ (0x30 ≤ ch.toNat ∧ ch.toNat ≤ 0x39) ∨ (0x41 ≤ ch.toNat ∧ ch.toNat ≤ 0x5A)) ∧
    (isDataChar ch = true ↔ charClass ch = .data) ∧
    (charClass ch = .frameStart ↔ ch = 0x3A) ∧ (charClass ch = .frameEnd ↔ ch = 0x23) ∧
    (charClass ch = .other ↔ ch ≠ 0x3A ∧ ch ≠ 0x23 ∧ ¬ (0x30 ≤ ch.toNat ∧ ch.toNat ≤ 0x39) ∧
      ¬ (0x41 ≤ ch.toNat ∧ ch.toNat ≤ 0x5A)) ∧
    (charClass ch = .data → s.c0.codec.inFrame = false → processChar ch s = .next s) ∧
    (charClass ch = .other → processChar ch s = .next s) ∧
    decode params (.frame [0x58, 0x59, 0x3A, 0x47, 0x50, 0x23]) = .ok .gp ∧
    decode params (.frame [0x3A, 0x47, 0x20, 0x50, 0x23]) = .ok .gp ∧
    decode params (.frame [0x3A, 0x53, 0x20, 0x4E, 0x20, 0x30, 0x20, 0x31, 0x20, 0x30, 0x20, 0x30, 0x23]) = .ok (.sn 0x0100) ∧
    decode params (.frame [0x3A, 0x67, 0x70, 0x23]) = .ok (.unrecognized none) ∧
    decode params (.frame [0x47, 0x50, 0x23]) = .error .noFrame

/-- 40_codec.md section 2: `:` starts a frame from any codec state; a data character in a frame is appended if there is
room and dropped otherwise; `#` ends the frame, empties the buffer and runs the command, and outside a frame does
nothing. -/
def Obligations.FrameCharactersDriveTheCodec : Prop :=
  ∀ s : State,
    processChar 0x3A s = .next { s with c0 := { s.c0 with codec := { rxBuf := [], inFrame := true } } } ∧
    (∀ ch, charClass ch = .data → s.c0.codec.inFrame = true →
      processChar ch s = .next { s with c0 := { s.c0 with codec :=
        { rxBuf := if s.c0.codec.rxBuf.length < s.cfg.bufCap then s.c0.codec.rxBuf ++ [ch] else s.c0.codec.rxBuf,
          inFrame := true } } }) ∧
    (s.c0.codec.inFrame = true → processChar 0x23 s =
      exec (decodeBuffer s.cfg s.c0.codec.rxBuf) { s with c0 := { s.c0 with codec := { rxBuf := [], inFrame := false } } }) ∧
    (s.c0.codec.inFrame = false → processChar 0x23 s = .next s)

/-! ## A step runs the decoded instruction -/

/-- 40_codec.md section 1: in a state without a recorded Defect, when C0 moves and is at GetChar, the step is that of the
turn's character; then C0 goes to Sending if a request is pending and to PollFeedback otherwise, and the next turn begins.
Inside a frame `#` runs exec of the buffer's instruction in the state with the codec emptied. No character, a data
character outside a frame, one of class OTHER and `#` outside a frame leave the codec as it is, `:` starts a frame, and a
data character in a frame is appended if there is room. -/
def Obligations.StepRunsTheFramesVerb : Prop :=
  ∀ s : State, s.faults = [] → s.env.turn.agent = .c0 → s.c0.phase = .getChar →
    (∀ i : Instr, s.c0.codec.inFrame = true → s.env.turn.char = some 0x23 → decodeBuffer s.cfg s.c0.codec.rxBuf = i →
      step s = thenDo (exec i { s with c0 := { s.c0 with codec := { rxBuf := [], inFrame := false } } })
        (fun t => { t with env := nextEnv t.env, c0 := { t.c0 with
          phase := if t.c0.pendingSend = none then .pollFeedback else .sending } })) ∧
    (∀ k : Codec,
      (s.env.turn.char = none ∧ k = s.c0.codec) ∨
      (s.env.turn.char = some 0x23 ∧ s.c0.codec.inFrame = false ∧ k = s.c0.codec) ∨
      (s.env.turn.char = some 0x3A ∧ k = { rxBuf := [], inFrame := true }) ∨
      (∃ ch, s.env.turn.char = some ch ∧ charClass ch = .other ∧ k = s.c0.codec) ∨
      (∃ ch, s.env.turn.char = some ch ∧ charClass ch = .data ∧ s.c0.codec.inFrame = false ∧ k = s.c0.codec) ∨
      (∃ ch, s.env.turn.char = some ch ∧ charClass ch = .data ∧ s.c0.codec.inFrame = true ∧
        k = { rxBuf := if s.c0.codec.rxBuf.length < s.cfg.bufCap then s.c0.codec.rxBuf ++ [ch] else s.c0.codec.rxBuf,
              inFrame := true }) →
      step s = .next { s with env := nextEnv s.env, c0 := { s.c0 with
        codec := k, phase := if s.c0.pendingSend = none then .pollFeedback else .sending } })

/-- 42_channel.md section 3: in a state without a recorded Defect, when C1 moves and is at Poll with a word in `chan`,
the step is exec of the word's instruction in the state with `chan` emptied and C1 at Motion, and the next turn begins; with
`chan` empty it only goes on to Motion. -/
def Obligations.StepRunsTheChannelsRequest : Prop :=
  ∀ s : State, s.faults = [] → s.env.turn.agent = .c1 → s.c1.phase = .poll →
    (∀ (w : Word32) (i : Instr), s.chan = some w → decodeChannelWord w = i →
      step s = thenDo (exec i { s with chan := none, c1 := { s.c1 with phase := .motion } })
        (fun t => { t with env := nextEnv t.env })) ∧
    (s.chan = none → step s = .next { s with env := nextEnv s.env, c1 := { s.c1 with phase := .motion } })

/-! ## Host commands -/

/-- 41_host_commands.md R164, R165, R171: GH and GC answer `00#` and GV the firmware text and `#`, in every state, and
change nothing else; and their frames decode to them. -/
def Obligations.FixedAnswers : Prop :=
  (∀ s : State,
    exec .gh s = .next { s with hostOut := s.hostOut ++ [0x30, 0x30, 0x23] } ∧
    exec .gc s = .next { s with hostOut := s.hostOut ++ [0x30, 0x30, 0x23] } ∧
    exec .gv s = .next { s with hostOut := s.hostOut ++ s.cfg.fwVersionText ++ [0x23] }) ∧
  params.fwVersionText = [0x31, 0x30] ∧
  decode params (.frame [0x3A, 0x47, 0x48, 0x23]) = .ok .gh ∧ decode params (.frame [0x3A, 0x47, 0x43, 0x23]) = .ok .gc ∧
  decode params (.frame [0x3A, 0x47, 0x56, 0x23]) = .ok .gv

/-- 41_host_commands.md section 3: GI answers `01#` when C0's copies of target and position differ and `00#` when they
are equal, and changes nothing else. -/
def Obligations.MovingStatusAnswer : Prop :=
  ∀ s : State,
    (s.c0.hostTarget ≠ s.c0.hostPosition → exec .gi s = .next { s with hostOut := s.hostOut ++ [0x30, 0x31, 0x23] }) ∧
    (s.c0.hostTarget = s.c0.hostPosition → exec .gi s = .next { s with hostOut := s.hostOut ++ [0x30, 0x30, 0x23] })

/-- 41_host_commands.md section 3: in every state GN answers four hex digits and `#` that read back as hostTarget, GP as
hostPosition, and GD two hex digits and `#` that read back as legacyDelay; nothing else changes. -/
def Obligations.RegisterAnswersReadBack : Prop :=
  ∀ s : State,
    (∃ ds : List Byte, ds.length = 4 ∧ (∀ d ∈ ds, hexDigitValue d ≠ none) ∧ hexValue ds = s.c0.hostTarget.toNat ∧
      exec .gn s = .next { s with hostOut := s.hostOut ++ ds ++ [0x23] }) ∧
    (∃ ds : List Byte, ds.length = 4 ∧ (∀ d ∈ ds, hexDigitValue d ≠ none) ∧ hexValue ds = s.c0.hostPosition.toNat ∧
      exec .gp s = .next { s with hostOut := s.hostOut ++ ds ++ [0x23] }) ∧
    (∃ ds : List Byte, ds.length = 2 ∧ (∀ d ∈ ds, hexDigitValue d ≠ none) ∧ hexValue ds = s.c0.legacyDelay.toNat ∧
      exec .gd s = .next { s with hostOut := s.hostOut ++ ds ++ [0x23] })

/-- 41_host_commands.md section 3: in every state GT answers four hex digits and `#` that read back, modulo 2^16 (two's
complement), as a temperature; nothing else changes. The temperature is twice the floor of the document's formula in exact
rational arithmetic for the turn's sample of ADC_BITS bits, with the configuration's TEMP constants whenever it divides by
no zero; with the stated constants it is that of 27 − (s × 3.3 / 4096 − 0.706) / 0.001721, and for 12-bit samples a value
in −2960 .. 874 (the sample is the turn's, whatever the channel: log 18). -/
def Obligations.TemperatureAnswer : Prop :=
  ∀ (s : State) (sample : Nat) (k : TempConstants), sample = s.env.turn.adc.toNat % 2 ^ s.cfg.adcBits → k = s.cfg.temp →
    ∃ (ds : List Byte) (temp : Int),
      ds.length = 4 ∧ (∀ d ∈ ds, hexDigitValue d ≠ none) ∧ (hexValue ds : Int) = temp % 65536 ∧
      exec .gt s = .next { s with hostOut := s.hostOut ++ ds ++ [0x23] } ∧
      (0 < k.adcSteps → 0 < k.slopeUv →
        temp = 2 * ⌊(k.refCelsius : ℚ) - ((sample : ℚ) * ((k.vrefUv : ℚ) / 1000000) / k.adcSteps -
          (k.refUv : ℚ) / 1000000) / ((k.slopeUv : ℚ) / 1000000)⌋) ∧
      (k = params.temp →
        temp = 2 * ⌊(27 : ℚ) - ((sample : ℚ) * (33 / 10) / 4096 - 706 / 1000) / (1721 / 1000000)⌋ ∧
        (s.cfg.adcBits = params.adcBits → -2960 ≤ temp ∧ temp ≤ 874))

/-- 41_host_commands.md section 2: FQ, FG and SH record their request's word as C0's pending send with no attempt made,
whatever was there, and change nothing else: no response, and hostTarget stays. -/
def Obligations.MotionVerbsRecordTheirRequest : Prop :=
  ∀ s : State,
    exec .fq s = .next { s with c0 := { s.c0 with pendingSend := some 0x00010000, sendAttempts := 0 } } ∧
    exec .fg s = .next { s with c0 := { s.c0 with pendingSend := some 0x00020000, sendAttempts := 0 } } ∧
    exec .sh s = .next { s with c0 := { s.c0 with pendingSend := some 0x00030000, sendAttempts := 0 } }

/-- 41_host_commands.md section 2: SN writes hostTarget and records Target(v), and changes nothing else. -/
def Obligations.NewTargetIsRecorded : Prop :=
  ∀ (s : State) (v : Word16),
    exec (.sn v) s = .next { s with c0 := { s.c0 with hostTarget := v, pendingSend := some (BitVec.ofNat 32 v.toNat), sendAttempts := 0 } }

/-- 41_host_commands.md section 4: SD stores the value's low 8 bits in legacyDelay and changes nothing else. -/
def Obligations.DelayFieldIsStored : Prop :=
  ∀ (s : State) (v : Word16),
    ∃ d : Byte, d.toNat = v.toNat % 256 ∧ exec (.sd v) s = .next { s with c0 := { s.c0 with legacyDelay := d } }

/-- 41_host_commands.md R174, R177 to R181: SF, the stubs and the value-bearing verbs without a handler run, answer
nothing and change nothing, with every value; and their frames decode to them. -/
def Obligations.StubVerbsChangeNothing : Prop :=
  (∀ (s : State) (v : Word16),
    exec .sf s = .next s ∧ exec (.yb v) s = .next s ∧ exec .zb s = .next s ∧ exec .zt s = .next s ∧
    exec .za s = .next s ∧ exec (.sp v) s = .next s ∧ exec (.yt v) s = .next s ∧ exec (.db v) s = .next s) ∧
  decode params (.frame [0x3A, 0x53, 0x46, 0x23]) = .ok .sf ∧ decode params (.frame [0x3A, 0x5A, 0x42, 0x23]) = .ok .zb ∧
  decode params (.frame [0x3A, 0x5A, 0x54, 0x23]) = .ok .zt ∧ decode params (.frame [0x3A, 0x5A, 0x41, 0x23]) = .ok .za ∧
  (∀ v : Word16,
    decode params (.frame ([0x3A, 0x59, 0x42] ++ hexDigits4 v ++ [0x23])) = .ok (.yb v) ∧
    decode params (.frame ([0x3A, 0x53, 0x50] ++ hexDigits4 v ++ [0x23])) = .ok (.sp v) ∧
    decode params (.frame ([0x3A, 0x59, 0x54] ++ hexDigits4 v ++ [0x23])) = .ok (.yt v) ∧
    decode params (.frame ([0x3A, 0x44, 0x42] ++ hexDigits4 v ++ [0x23])) = .ok (.db v))

/-- 41_host_commands.md R161: a buffer whose verb is in no row, and a buffer with no verb, is ignored: the instruction it
decodes to answers nothing and changes nothing; so does the fallback row with any verb. -/
def Obligations.UnrecognizedVerbIsIgnored : Prop :=
  (∀ (c : Config) (s : State) (b0 b1 : Byte) (rest : List Byte), verb16 b0 b1 ∉ rowVerbs →
    exec (decodeBuffer c (b0 :: b1 :: rest)) s = .next s) ∧
  (∀ (c : Config) (s : State) (buf : List Byte), buf.length < 2 → exec (decodeBuffer c buf) s = .next s) ∧
  (∀ (s : State) (verb : Option Word16), exec (.unrecognized verb) s = .next s)

/-! ## Mailboxes and channel operations -/

/-- 20_memory.md R64, R66: a put on an empty slot succeeds and stores the word whole; on a full one it fails and leaves
the held word; a take empties a full slot and returns its word, and returns none from an empty one. -/
def Obligations.MailboxHoldsOneWord : Prop :=
  (∀ w, slotTryPut none w = (true, some w)) ∧ (∀ h w, slotTryPut (some h) w = (false, some h)) ∧
  (∀ h, slotTake (some h) = (some h, none)) ∧ slotTake none = (none, none) ∧
  (∀ slot, slotFull slot = true ↔ ∃ h, slot = some h)

/-- 42_channel.md R212, and section 1: the Sending step puts the pending word into an empty `chan` and moves on; on a
full one it counts the attempt and stays, and at SEND_RETRY_LIMIT it logs the drop and moves on. Nothing else changes. -/
def Obligations.SendingPutsCountsOrDrops : Prop :=
  ∀ (s : State) (w : Word32), s.c0.phase = .sending → s.c0.pendingSend = some w →
    (s.chan = none → c0Step s = .next { s with
      chan := some w
      c0 := { s.c0 with pendingSend := none, sendAttempts := 0, phase := .pollFeedback } }) ∧
    (∀ h, s.chan = some h → s.c0.sendAttempts + 1 ≠ s.cfg.sendRetryLimit →
      c0Step s = .next { s with c0 := { s.c0 with sendAttempts := s.c0.sendAttempts + 1 } }) ∧
    (∀ h, s.chan = some h → s.c0.sendAttempts + 1 = s.cfg.sendRetryLimit →
      c0Step s = .next { s with
        dropLog := s.dropLog ++ [.droppedRequest w]
        c0 := { s.c0 with pendingSend := none, sendAttempts := 0, phase := .pollFeedback } })

/-- 42_channel.md section 1: retries are bounded. While `chan` stays full, each Sending step before the last one only
counts its attempt, the request still pending and nothing logged; exactly SEND_RETRY_LIMIT less the attempts already made
Sending steps later the request is dropped and logged and C0 has moved on. -/
def Obligations.RetriesAreBounded : Prop :=
  ∀ (s : State) (w h : Word32), s.c0.pendingSend = some w → s.chan = some h → s.c0.sendAttempts < s.cfg.sendRetryLimit →
    (∀ j, s.c0.sendAttempts + j < s.cfg.sendRetryLimit →
      sendingStep^[j] s = { s with c0 := { s.c0 with sendAttempts := s.c0.sendAttempts + j } }) ∧
    sendingStep^[s.cfg.sendRetryLimit - s.c0.sendAttempts] s =
      { s with
        dropLog := s.dropLog ++ [.droppedRequest w]
        c0 := { s.c0 with pendingSend := none, sendAttempts := 0, phase := .pollFeedback } }

/-- 42_channel.md section 2: PollFeedback copies both halves of a feedback word to C0's registers and empties `fb`; with
`fb` empty it changes only the phase. -/
def Obligations.FeedbackReachesTheHostRegisters : Prop :=
  ∀ s : State, s.c0.phase = .pollFeedback →
    (∀ t c : Position, s.fb = some (encodeReport t c) →
      c0Step s = .next { s with fb := none, c0 := { s.c0 with hostTarget := t, hostPosition := c, phase := .getChar } }) ∧
    (s.fb = none → c0Step s = .next { s with c0 := { s.c0 with phase := .getChar } })

/-- 42_channel.md section 4: in FinalReport C1 changes nothing while `fb` is full; when it is empty it puts the pending
report and goes on at Override (a step that waits is a step that changes nothing: log 3). -/
def Obligations.FinalReportWaitsForTheSlot : Prop :=
  ∀ s : State, s.c1.phase = .finalReport →
    (∀ h, s.fb = some h → c1Step s = .next s) ∧
    (s.fb = none → c1Step s = .next { s with fb := some s.c1.pendingFinal, c1 := { s.c1 with phase := .override } })

/-- 42_channel.md R216: an intermediate report puts the feedback word into an empty `fb`; when `fb` is full it leaves it
and logs the drop. -/
def Obligations.IntermediateReportPutsOrDrops : Prop :=
  ∀ s : State,
    (s.fb = none → reportIntermediate s = { s with fb := some (fbWord s) }) ∧
    (∀ h, s.fb = some h → reportIntermediate s = { s with dropLog := s.dropLog ++ [.droppedReport (fbWord s)] })

/-! ## Motion requests -/

/-- 43_motion_requests.md sections 1 and 2: Target(v), channel word 0x0000_0000 + v, runs in every state. It sets the
target, restarts the ramp, counts the plain unsigned distance, heads for the target (keeping the direction when already there), enters Stepping, and drives
DIR, then STOP low; nothing else changes. -/
def Obligations.TargetStartsAMotion : Prop :=
  ∀ (s : State) (v : Position), decodeChannelWord (BitVec.ofNat 32 v.toNat) = .target v ∧ ∃ m : MotorState,
    m.mode = .stepping ∧ m.currentPosition = s.motor.currentPosition ∧ m.targetPosition = v ∧
    m.stepIntervalMs = s.cfg.rampMaxMs ∧
    (m.stepsRemaining.toNat : Int) = |(v.toNat : Int) - s.motor.currentPosition.toNat| ∧
    (s.motor.currentPosition.toNat < v.toNat → m.direction = .forward) ∧
    (v.toNat < s.motor.currentPosition.toNat → m.direction = .reverse) ∧
    (v = s.motor.currentPosition → m.direction = s.motor.direction) ∧
    exec (.target v) s = .next { s with
      motor := m
      pins := { s.pins with dir := decide (m.direction = .forward), stop := false }
      pinTrace := s.pinTrace ++ [.pin .dir (decide (m.direction = .forward)), .pin .stop false] }

/-- 43_motion_requests.md section 2: Go, channel word 0x0002_0000, does nothing while Stepping; in Idle and in Stopped it
is exactly the Target request for the target position the engine has. -/
def Obligations.GoActsOnlyFromRest : Prop :=
  ∀ s : State, decodeChannelWord 0x00020000 = .go ∧
    (s.motor.mode = .stepping → exec .go s = .next s) ∧
    (s.motor.mode ≠ .stepping →
      exec .go s = exec (.target s.motor.targetPosition) s ∧
      ∃ t, exec .go s = .next t ∧ t.motor.mode = .stepping ∧ t.motor.stepIntervalMs = s.cfg.rampMaxMs ∧
        t.motor.currentPosition = s.motor.currentPosition ∧ t.motor.targetPosition = s.motor.targetPosition ∧
        t.pins.stop = false)

/-- 43_motion_requests.md section 2: Stop, channel word 0x0001_0000, runs in every state. The target becomes the current position, no steps remain,
the engine is Idle, STOP is driven high, and C1 holds the report of that position in FinalReport; direction, interval,
alarms and everything else stay. -/
def Obligations.StopEndsMotionWhereItStands : Prop :=
  ∀ s : State, decodeChannelWord 0x00010000 = .stop ∧ exec .stop s = .next { s with
    motor := { s.motor with mode := .idle, targetPosition := s.motor.currentPosition, stepsRemaining := 0 }
    c1 := { s.c1 with phase := .finalReport, pendingFinal := encodeReport s.motor.currentPosition s.motor.currentPosition }
    pins := { s.pins with stop := true }
    pinTrace := s.pinTrace ++ [.pin .stop true] }

/-- 43_motion_requests.md section 2: Recalibrate, channel word 0x0003_0000, runs in every state. It forces the current
position to RECAL_POSITION and then acts exactly as Target(RECAL_TARGET), which leaves the engine Stepping toward it at
the slowest interval; with the document's values it then has 1000 steps to go in Reverse. -/
def Obligations.RecalibrateDrivesToTheReference : Prop :=
  ∀ s : State, decodeChannelWord 0x00030000 = .recalibrate ∧
    exec .recalibrate s =
      exec (.target s.cfg.recalTarget) { s with motor := { s.motor with currentPosition := s.cfg.recalPosition } } ∧
    ∃ t, exec .recalibrate s = .next t ∧ t.motor.mode = .stepping ∧ t.motor.currentPosition = s.cfg.recalPosition ∧
      t.motor.targetPosition = s.cfg.recalTarget ∧ t.motor.stepIntervalMs = s.cfg.rampMaxMs ∧
      t.pins.stop = false ∧ t.pins.step = s.pins.step ∧ t.pins.ir = s.pins.ir ∧
      t.c1 = s.c1 ∧ t.imaging = s.imaging ∧ t.c0 = s.c0 ∧ t.chan = s.chan ∧ t.fb = s.fb ∧ t.alarms = s.alarms ∧
      t.hostOut = s.hostOut ∧ t.dropLog = s.dropLog ∧ t.faults = s.faults ∧
      (s.cfg.recalPosition = 1000 → s.cfg.recalTarget = 0 →
        t.motor.direction = .reverse ∧ t.motor.stepsRemaining = 1000 ∧ t.pins.dir = false)

/-- 43_motion_requests.md section 3: a Go taken by an Idle engine never causes a pulse. Two C1 steps later the motion is
over: no STEP pulse, the position and the target as they were, a Cooldown armed and C1 in FinalReport. (The turns
that let C1 move twice stand in State as data: log 1.) -/
def Obligations.GoFromIdleNeverPulses : Prop :=
  ∀ s : State, Inv s → s.motor.mode = .idle → s.c1.phase = .poll → s.chan = some 0x00020000 →
    agentHasTurns .c1 2 s →
    ∃ t, runSteps 2 s = .next t ∧ stepPulses t.pinTrace = stepPulses s.pinTrace ∧
      t.motor.currentPosition = s.motor.currentPosition ∧ t.motor.targetPosition = s.motor.targetPosition ∧
      t.motor.mode = .idle ∧ t.c1.phase = .finalReport ∧
      t.alarms = insertAlarm { kind := .cooldown, delayMs := s.cfg.cooldownMs } s.alarms

/-! ## Stepping -/

/-- 44_stepping.md R274: the Motion step only returns to Override when the engine is not Stepping; it ends a motion
already at its target without a pulse, arming Cooldown; else it opens a batch. -/
def Obligations.MotionStepOpensOrEndsABatch : Prop :=
  ∀ s : State, s.c1.phase = .motion →
    (s.motor.mode ≠ .stepping → c1Step s = .next { s with c1 := { s.c1 with phase := .override } }) ∧
    (s.motor.mode = .stepping → s.motor.currentPosition = s.motor.targetPosition →
      c1Step s = .next { s with
        motor := { s.motor with mode := .idle }
        c1 := { phase := .finalReport, batchCount := 0,
                pendingFinal := encodeReport s.motor.targetPosition s.motor.currentPosition }
        alarms := insertAlarm { kind := .cooldown, delayMs := s.cfg.cooldownMs } s.alarms }) ∧
    (s.motor.mode = .stepping → s.motor.currentPosition ≠ s.motor.targetPosition →
      c1Step s = .next { s with c1 := { s.c1 with phase := .pulsing, batchCount := 0 } })

/-- 44_stepping.md section 3: a Pulse step whose direction agrees with the positions drives STEP high and low, holding
each for the interval in force, moves the position by one, counts, ramps, and then ends the motion, the batch, or neither;
C0, the mailbox `chan`, the imaging registers and the output to the host stay. -/
def Obligations.PulseMovesOneStep : Prop :=
  ∀ s : State, s.c1.phase = .pulsing →
    (s.motor.direction = .forward → s.motor.currentPosition.toNat < s.motor.targetPosition.toNat) →
    (s.motor.direction = .reverse → s.motor.targetPosition.toNat < s.motor.currentPosition.toNat) →
    ∃ t, c1Step s = .next t ∧
      t.pinTrace = s.pinTrace ++ [.pin .step true, .hold (s.motor.stepIntervalMs.toNat * 1000),
        .pin .step false, .hold (s.motor.stepIntervalMs.toNat * 1000)] ∧
      t.pins = { s.pins with step := false } ∧
      (s.motor.direction = .forward → t.motor.currentPosition.toNat = s.motor.currentPosition.toNat + 1) ∧
      (s.motor.direction = .reverse → t.motor.currentPosition.toNat + 1 = s.motor.currentPosition.toNat) ∧
      t.motor.targetPosition = s.motor.targetPosition ∧ t.motor.direction = s.motor.direction ∧
      t.motor.stepsRemaining = s.motor.stepsRemaining - 1 ∧
      (s.cfg.rampFloorMs.toNat < s.motor.stepIntervalMs.toNat →
        t.motor.stepIntervalMs = s.motor.stepIntervalMs - s.cfg.rampStepMs) ∧
      (s.motor.stepIntervalMs.toNat ≤ s.cfg.rampFloorMs.toNat → t.motor.stepIntervalMs = s.motor.stepIntervalMs) ∧
      t.c1.batchCount = s.c1.batchCount + 1 ∧
      (t.motor.currentPosition = t.motor.targetPosition →
        t.motor.mode = .idle ∧ t.c1.phase = .finalReport ∧ t.c1.pendingFinal = fbWord t ∧ t.fb = s.fb ∧
        t.dropLog = s.dropLog ∧
        t.alarms = insertAlarm { kind := .cooldown, delayMs := s.cfg.cooldownMs } s.alarms) ∧
      (t.motor.currentPosition ≠ t.motor.targetPosition →
        t.motor.mode = s.motor.mode ∧ t.alarms = s.alarms ∧ t.c1.pendingFinal = s.c1.pendingFinal ∧
        (t.c1.batchCount = s.cfg.batchSize → t.c1.phase = .override ∧
          (s.fb = none → t.fb = some (fbWord t) ∧ t.dropLog = s.dropLog) ∧
          (s.fb ≠ none → t.fb = s.fb ∧ t.dropLog = s.dropLog ++ [.droppedReport (fbWord t)])) ∧
        (t.c1.batchCount ≠ s.cfg.batchSize → t.c1.phase = .pulsing ∧ t.fb = s.fb ∧ t.dropLog = s.dropLog)) ∧
      t.cfg = s.cfg ∧ t.env = s.env ∧ t.imaging = s.imaging ∧ t.c0 = s.c0 ∧ t.chan = s.chan ∧
      t.hostOut = s.hostOut ∧ t.faults = s.faults

/-- 44_stepping.md section 5: after k ramps from RAMP_MAX_MS the interval is max(RAMP_MAX_MS − k × RAMP_STEP_MS,
RAMP_FLOOR_MS), for every well-formed configuration. -/
def Obligations.RampReachesTheFloorLinearly : Prop :=
  ∀ (c : Config) (k : Nat), c.wellFormed = true →
    ((rampInterval c.rampFloorMs c.rampStepMs)^[k] c.rampMaxMs).toNat =
      max (c.rampMaxMs.toNat - k * c.rampStepMs.toNat) c.rampFloorMs.toNat

/-- 44_stepping.md section 5: inside a batch, n pulses bring the position exactly n steps nearer to the target and emit
exactly n STEP pulses, the target staying, and raise no Defect (C1's turns stand in State as data: log 1). -/
def Obligations.PulsesApproachTheTarget : Prop :=
  ∀ (s : State) (n : Nat), Inv s → s.c1.phase = .pulsing → agentHasTurns .c1 n s →
    n ≤ distance s.motor.targetPosition s.motor.currentPosition → n ≤ s.cfg.batchSize - s.c1.batchCount →
    ∃ t, runSteps n s = .next t ∧ Inv t ∧ t.motor.targetPosition = s.motor.targetPosition ∧
      distance t.motor.targetPosition t.motor.currentPosition + n =
        distance s.motor.targetPosition s.motor.currentPosition ∧
      stepPulses t.pinTrace = stepPulses s.pinTrace + n ∧ t.faults = []

/-- 44_stepping.md sections 1 to 5: every motion ends at its target. From every state that meets the invariant with the
engine Stepping at the start of an iteration and `chan` empty, there is a number of C1 steps after which, with the
buttons inactive, the engine is Idle at the target it had and holds the final report (the turns stand in State as data:
log 1). -/
def Obligations.EveryMotionEndsAtItsTarget : Prop :=
  ∀ s : State, Inv s → s.motor.mode = .stepping → s.c1.phase = .override → s.chan = none →
    ∃ k : Nat, ∀ e : Env, k ≤ e.script.length →
      (∀ t ∈ e.turn :: e.script, t.agent = .c1 ∧ t.btnInc = false ∧ t.btnDec = false) →
      ∃ t, runSteps k { s with env := e } = .next t ∧ t.motor.mode = .idle ∧
        t.motor.currentPosition = s.motor.targetPosition ∧ t.motor.targetPosition = s.motor.targetPosition ∧
        t.c1.phase = .finalReport ∧ t.c1.pendingFinal = encodeReport s.motor.targetPosition s.motor.targetPosition

/-! ## Manual override -/

/-- 45_manual_override.md R300: with exactly one button active the Override step is the Target request for the
position OVERRIDE_STEP up (mod 2^16) or down (only from OVERRIDE_STEP upward), then the settle hold; with neither or both,
or a decrease from below, only the hold. -/
def Obligations.OverrideArbitratesTheButtons : Prop :=
  ∀ s : State, s.c1.phase = .override →
    (s.env.turn.btnInc = true → s.env.turn.btnDec = false →
      ∃ v : Position, v.toNat = (s.motor.currentPosition.toNat + s.cfg.overrideStep.toNat) % 65536 ∧
        c1Step s = thenDo (exec (.target v) s) (fun t =>
          { t with pinTrace := t.pinTrace ++ [.hold (s.cfg.settleMs * 1000)], c1 := { t.c1 with phase := .imaging } })) ∧
    (s.env.turn.btnInc = false → s.env.turn.btnDec = true → s.cfg.overrideStep.toNat ≤ s.motor.currentPosition.toNat →
      ∃ v : Position, v.toNat + s.cfg.overrideStep.toNat = s.motor.currentPosition.toNat ∧
        c1Step s = thenDo (exec (.target v) s) (fun t =>
          { t with pinTrace := t.pinTrace ++ [.hold (s.cfg.settleMs * 1000)], c1 := { t.c1 with phase := .imaging } })) ∧
    (s.env.turn.btnInc = s.env.turn.btnDec ∨
        (s.env.turn.btnInc = false ∧ s.motor.currentPosition.toNat < s.cfg.overrideStep.toNat) →
      c1Step s = .next
        { s with pinTrace := s.pinTrace ++ [.hold (s.cfg.settleMs * 1000)], c1 := { s.c1 with phase := .imaging } })

/-! ## Intervalometer -/

/-- 46_intervalometer.md R326: a click appends exactly IR_BURSTS bursts of IR_PULSES pulses, a gap between consecutive
bursts and none after the last, leaves IR low, and changes nothing else. -/
def Obligations.ClickWaveform : Prop :=
  (∀ s : State, 1 ≤ s.cfg.irBursts → 1 ≤ s.cfg.irPulses →
    fireClick s = { s with
      pins := { s.pins with ir := false }
      pinTrace := s.pinTrace ++
        ((List.replicate s.cfg.irBursts (List.replicate s.cfg.irPulses
          [PinEvent.pin .ir true, .hold s.cfg.irPulseUs, .pin .ir false, .hold s.cfg.irPulseUs]).flatten).intersperse
            [.hold s.cfg.irGapUs]).flatten }) ∧
  (∀ s : State, s.cfg.irBursts = 2 → s.cfg.irPulses = 16 → s.cfg.irPulseUs = 15 → s.cfg.irGapUs = 7300 →
    (fireClick s).pinTrace.length = s.pinTrace.length + 129 ∧
    holdSum (fireClick s).pinTrace = holdSum s.pinTrace + 8260)

/-- 46_intervalometer.md sections 2 and 5: how the Imaging step moves the intervalometer through its phases, with the
switch draw of the step, what it arms, and the one click waveform of each row that clicks; all else stays, but C1 at
Poll. Without the intervalometer it only goes on to Poll. -/
def Obligations.ImagingPhasesMoveByTheTable : Prop :=
  (∀ s : State, s.c1.phase = .imaging → s.cfg.hasIntervalometer = false →
    c1Step s = .next { s with c1 := { s.c1 with phase := .poll } }) ∧
  (∀ s : State, Inv s → s.c1.phase = .imaging → s.cfg.hasIntervalometer = true →
    ∃ t, c1Step s = .next t ∧
      t = { s with c1 := { s.c1 with phase := .poll }, imaging := t.imaging, alarms := t.alarms, pinTrace := t.pinTrace } ∧
      (imgPhase s = .idle → s.env.turn.imgSwitch = true →
        imgPhase t = .shutterOpen ∧ t.imaging.clickRequired = false ∧ t.pinTrace = (fireClick s).pinTrace ∧
        t.alarms = insertAlarm { kind := .exposure, delayMs := s.cfg.exposureMs } s.alarms) ∧
      (imgPhase s = .idle → s.env.turn.imgSwitch = false →
        t = { s with c1 := { s.c1 with phase := .poll } }) ∧
      (imgPhase s ≠ .idle → s.imaging.clickRequired = false → t = { s with c1 := { s.c1 with phase := .poll } }) ∧
      (imgPhase s = .shutterOpen → s.imaging.clickRequired = true → s.env.turn.imgSwitch = true →
        imgPhase t = .pauseAfterClose ∧ t.imaging.clickRequired = false ∧ t.pinTrace = (fireClick s).pinTrace ∧
        t.alarms = insertAlarm { kind := .pause, delayMs := s.cfg.pauseMs } s.alarms) ∧
      (imgPhase s = .shutterOpen → s.imaging.clickRequired = true → s.env.turn.imgSwitch = false →
        imgPhase t = .idle ∧ t.imaging = { started := false, shutterOpen := false, clickRequired := false } ∧
        t.pinTrace = (fireClick s).pinTrace ∧ t.alarms = s.alarms) ∧
      (imgPhase s = .pauseAfterClose → s.imaging.clickRequired = true →
        imgPhase t = .shutterOpen ∧ t.imaging.clickRequired = false ∧ t.pinTrace = (fireClick s).pinTrace ∧
        t.alarms = insertAlarm { kind := .exposure, delayMs := s.cfg.exposureMs } s.alarms))

/-- 46_intervalometer.md section 5: every step keeps the number of clicks even exactly when the shutter is believed
closed. -/
def Obligations.StepKeepsClicksMatchingShutter : Prop :=
  ∀ s t : State, 1 ≤ s.cfg.irBursts → 1 ≤ s.cfg.irPulses → ClicksMatchShutter s → step s = .next t → ClicksMatchShutter t

/-! ## Alarms and the fault -/

/-- 60_exceptions.md section 2: the Fire step removes exactly one armed alarm and runs its callback: Cooldown drives STOP
high whatever the engine does, Exposure and Pause set clickRequired; nothing else changes. Any armed alarm can be the
one (the turn's number chooses it: log 13). With none armed nothing changes (a step that is not enabled: log 3). -/
def Obligations.OneAlarmFires : Prop :=
  (∀ s : State, s.alarms ≠ [] → ∃ a, a ∈ s.alarms ∧ (a :: (fireStep s).alarms).Perm s.alarms ∧
    (a.kind = .cooldown → fireStep s = { s with
      alarms := (fireStep s).alarms
      pins := { s.pins with stop := true }
      pinTrace := s.pinTrace ++ [.pin .stop true] }) ∧
    (a.kind ≠ .cooldown → fireStep s = { s with
      alarms := (fireStep s).alarms
      imaging := { s.imaging with clickRequired := true } })) ∧
  (∀ (s : State) (a : Alarm), a ∈ s.alarms → ∃ n : Nat,
    (a :: (fireStep { s with env := { s.env with turn := { s.env.turn with alarm := n } } }).alarms).Perm s.alarms) ∧
  (∀ s : State, s.alarms = [] → fireStep s = s)

/-- 60_exceptions.md section 2: arming an alarm adds exactly that one to the multiset. That the multiset is held as a
sorted list, which arming keeps sorted and which is one list for each multiset, is the model's choice (log 12). -/
def Obligations.AlarmsAreAMultiset : Prop :=
  (∀ (s : State) (ms : Nat) (kind : AlarmKind),
    (scheduleAlarm ms kind s).alarms.Perm ({ kind := kind, delayMs := ms } :: s.alarms) ∧
    (alarmsSorted s.alarms = true → alarmsSorted (scheduleAlarm ms kind s).alarms = true)) ∧
  (∀ as bs : List Alarm, alarmsSorted as = true → alarmsSorted bs = true → as.Perm bs → as = bs)

/-- 60_exceptions.md section 1: a Pulse step whose direction disagrees with the positions records a Defect and writes
nothing else; once one is recorded no agent takes any further step (the model records it in one step and faults at the
next: log 11). -/
def Obligations.DefectEndsTheRun : Prop :=
  (∀ s : State, s.c1.phase = .pulsing →
    (s.motor.direction = .forward ∧ s.motor.targetPosition.toNat ≤ s.motor.currentPosition.toNat ∨
      s.motor.direction = .reverse ∧ s.motor.currentPosition.toNat ≤ s.motor.targetPosition.toNat) →
    c1Step s = .next { s with faults := s.faults ++ [.directionInconsistent] }) ∧
  (∀ s : State, s.faults ≠ [] → ∃ r, step s = .fault r)

/-! ## Reset and configuration -/

/-- 10_state.md R48: what reset leaves, with the OPEN values as parameters of the configuration. -/
def Obligations.ResetValues : Prop :=
  ∀ (c : Config) (e : Env), ∀ s, s = State.resetOf c e →
    s.motor = { mode := .idle, currentPosition := 0, targetPosition := 0, stepIntervalMs := c.rampMaxMs,
                direction := .forward, stepsRemaining := 0 } ∧ stepping s = false ∧
    s.c1 = { phase := .override, batchCount := 0, pendingFinal := 0 } ∧
    s.imaging = { started := false, shutterOpen := false, clickRequired := false } ∧
    s.c0 = { codec := { rxBuf := [], inFrame := false }, hostTarget := 0, hostPosition := 0,
             legacyDelay := c.legacyDelayReset, pendingSend := none, sendAttempts := 0, phase := .getChar } ∧
    rxLen s = 0 ∧ s.chan = none ∧ s.fb = none ∧
    s.pins = { step := false, dir := c.dirPinAtReset, stop := c.stopLineAtReset, ir := false } ∧
    s.alarms = [] ∧ s.hostOut = [] ∧ s.pinTrace = [] ∧ s.dropLog = [] ∧ s.faults = [] ∧ params.rampMaxMs = 40

/-- 00_scope.md section 5 and 60_exceptions.md section 1: a configuration is refused exactly when it breaks a condition
on the parameters. That power-on, before reset, is what refuses it, and that the constraints of the parameter table are
refused there too, under a name of their own, is the model's form of it (log 5). -/
def Obligations.BootRefusesIllFormedConfigurations : Prop :=
  ∀ (c : Config) (e : Env) (conditions constraints : Prop),
    (conditions ↔ 1 ≤ c.batchSize ∧ 1 ≤ c.rampFloorMs.toNat ∧ 1 ≤ c.rampStepMs.toNat ∧
      c.rampFloorMs.toNat ≤ c.rampMaxMs.toNat ∧ (c.rampMaxMs.toNat - c.rampFloorMs.toNat) % c.rampStepMs.toNat = 0 ∧
      1 ≤ c.overrideStep.toNat ∧ c.overrideStep.toNat < 2 ^ c.posBits ∧ c.recalPosition.toNat < 2 ^ c.posBits ∧
      c.recalTarget.toNat < 2 ^ c.posBits ∧ 1 ≤ c.sendRetryLimit ∧ 0 < c.pauseMs ∧ c.pauseMs < c.exposureMs ∧
      1 ≤ c.irBursts ∧ 1 ≤ c.irPulses ∧ 2 ≤ c.bufCap) →
    (constraints ↔ c.posBits = 16 ∧ 10 ≤ c.chanPollTimeoutUs ∧ c.chanPollTimeoutUs ≤ 10000 ∧ 0 < c.sendBackoffUs) →
    (conditions → constraints → boot c e = .next (State.resetOf c e)) ∧
    (conditions → ¬ constraints → boot c e = .refused .outsideTable) ∧
    (¬ conditions → boot c e = .refused .illFormedConfig)

/-! ## The whole machine -/

/-- Every step keeps the invariant, from every state that meets it, under every turn (10_state.md section 3). -/
def Obligations.StepKeepsInv : Prop :=
  ∀ s t : State, Inv s → step s = .next t → Inv t

/-- The state after reset meets the invariant, whatever the OPEN parameters and the free turns are. -/
def Obligations.ResetMeetsInv : Prop :=
  Inv State.reset ∧ PinsFollowTrace State.reset ∧ ClicksMatchShutter State.reset

/-- 44_stepping.md section 5 and 60_exceptions.md section 1: from every state that meets the invariant a run of any
length never stops: no Defect is ever recorded, whatever the turns. -/
def Obligations.NoRunRecordsADefect : Prop :=
  ∀ (s : State) (k : Nat), Inv s → ∃ t, runSteps k s = .next t ∧ Inv t ∧ t.faults = []

/-- 10_state.md section 2: each agent writes only its own. A C0 step leaves all that C1 and IRQ write, and of the
mailboxes only puts into an empty `chan` and only takes from `fb`; a C1 step leaves all that C0 writes, and only takes from
`chan` and only puts into an empty `fb`; an IRQ step writes only the alarms, the STOP pin with its trace event, and
clickRequired. -/
def Obligations.AgentsWriteOnlyTheirOwn : Prop :=
  ∀ s t : State, step s = .next t →
    (s.env.turn.agent = .c0 → SameMotorSide s t ∧ (t.chan = s.chan ∨ s.chan = none) ∧ (t.fb = s.fb ∨ t.fb = none)) ∧
    (s.env.turn.agent = .c1 → s.c1.phase ≠ .poll →
      SameHostSide s t ∧ t.chan = s.chan ∧ (t.fb = s.fb ∨ s.fb = none)) ∧
    (s.env.turn.agent = .c1 → s.c1.phase = .poll → SameHostSide s t ∧ t.chan = none ∧ t.fb = s.fb) ∧
    (s.env.turn.agent = .irq → SameHostSide s t ∧ t.motor = s.motor ∧ t.c1 = s.c1 ∧ t.chan = s.chan ∧ t.fb = s.fb ∧
      t.dropLog = s.dropLog ∧ t.faults = s.faults ∧
      t.imaging.started = s.imaging.started ∧ t.imaging.shutterOpen = s.imaging.shutterOpen ∧
      t.pins.step = s.pins.step ∧ t.pins.dir = s.pins.dir ∧ t.pins.ir = s.pins.ir ∧
      (t.pins.stop = s.pins.stop ∧ t.pinTrace = s.pinTrace ∨
        t.pins.stop = true ∧ t.pinTrace = s.pinTrace ++ [.pin .stop true]))

/-- 20_memory.md section 6: C1 and IRQ cannot tell C0's registers apart. Replacing all of them, and the host output, leaves
what a C1 or IRQ step does to everything else the same. -/
def Obligations.MotorSideIgnoresHostRegisters : Prop :=
  ∀ (s t : State) (c0 : C0State) (out : List Byte), s.env.turn.agent ≠ .c0 → step s = .next t →
    step { s with c0 := c0, hostOut := out } = .next { t with c0 := c0, hostOut := out }

/-- 20_memory.md section 6: C0 cannot tell the motor side apart but through the mailboxes. Replacing the motor,
intervalometer and sequencer registers leaves what a C0 step does to everything else the same. -/
def Obligations.HostSideIgnoresMotorRegisters : Prop :=
  ∀ (s t : State) (m : MotorState) (q : C1State) (g : ImagingState), s.env.turn.agent = .c0 → step s = .next t →
    step { s with motor := m, c1 := q, imaging := g } = .next { t with motor := m, c1 := q, imaging := g }

/-- 10_state.md sections 1 and 4: no step takes anything out of a trace, a log or the fault record, and none changes the
configuration. -/
def Obligations.TracesOnlyGrowAndConfigStays : Prop :=
  ∀ s t : State, step s = .next t →
    s.hostOut <+: t.hostOut ∧ s.pinTrace <+: t.pinTrace ∧ s.dropLog <+: t.dropLog ∧ s.faults <+: t.faults ∧ t.cfg = s.cfg

/-- 20_memory.md section 5: every step keeps each pin at the level its last SetPin event gave it. -/
def Obligations.StepKeepsPinsFollowingTrace : Prop :=
  ∀ s t : State, PinsFollowTrace s → step s = .next t → PinsFollowTrace t

/-- 10_state.md section 1.1, 43_motion_requests.md, 44_stepping.md section 3: the position changes only in a Pulse step
and in the Poll step that takes a Recalibrate; 45_manual_override.md section 1: the target only in an Override step and in
a Poll step that takes a request; 40_codec.md sections 2 and 4: characters leave only in a GetChar step that reads a `#`
inside a frame. -/
def Obligations.OnlyTheirRulesWritePositions : Prop :=
  ∀ s t : State, step s = .next t →
    (t.motor.currentPosition ≠ s.motor.currentPosition → s.env.turn.agent = .c1 ∧
      (s.c1.phase = .pulsing ∨ (s.c1.phase = .poll ∧ ∃ w, s.chan = some w ∧ decodeChannelWord w = .recalibrate))) ∧
    (t.motor.targetPosition ≠ s.motor.targetPosition → s.env.turn.agent = .c1 ∧
      (s.c1.phase = .override ∨ (s.c1.phase = .poll ∧ s.chan ≠ none))) ∧
    (t.hostOut ≠ s.hostOut → s.env.turn.agent = .c0 ∧ s.c0.phase = .getChar ∧ s.c0.codec.inFrame = true ∧
      s.env.turn.char = some 0x23)

/-- 70_reset_and_hazards.md section 2: from a quiescent state, as long as the inputs are inactive and the host delivers
nothing, no run changes a register, a mailbox, an alarm or a pin but the two sequencers, and it appends to the pin trace
only settle holds (the turns stand in State as data: log 1). -/
def Obligations.QuiescenceIsStable : Prop :=
  ∀ (s : State) (k : Nat), Inv s → Quiescent s → k ≤ s.env.script.length →
    (∀ t ∈ s.env.turn :: s.env.script, quietTurn t) →
    ∃ t n, runSteps k s = .next t ∧ t.motor = s.motor ∧ t.imaging = s.imaging ∧ t.chan = s.chan ∧ t.fb = s.fb ∧
      t.pins = s.pins ∧ t.alarms = s.alarms ∧ t.hostOut = s.hostOut ∧ t.dropLog = s.dropLog ∧ t.faults = s.faults ∧
      t.c0 = { s.c0 with phase := t.c0.phase } ∧ t.c1 = { s.c1 with phase := t.c1.phase } ∧
      t.pinTrace = s.pinTrace ++ List.replicate n (.hold (s.cfg.settleMs * 1000))

/-- 70_reset_and_hazards.md section 2: every weakly fair run comes to rest once the inputs stay inactive and the host
delivers no further character, its last frame complete: from some step on nothing is under way for ever, STOP is asserted
if a motion has run, and whenever C0 is then at GetChar and C1 at Override the state is quiescent. That the two loops may
never stand there together is why rest is stated without their phases (log 25). -/
def Obligations.FairRunsComeToRest : Prop :=
  ∀ (s : State) (turns : Nat → Turn) (last : Nat), Inv s → WeaklyFair turns s →
    (∀ m, last ≤ m → quietTurn (turns m)) → (runUnder turns s last).c0.codec.inFrame = false →
    ∃ n, ∀ m, n ≤ m → AtRest (runUnder turns s m) ∧
      ((runUnder turns s m).c0.phase = .getChar → (runUnder turns s m).c1.phase = .override →
        Quiescent (runUnder turns s m))
end

