-- ==== Sys2Proof/Laws/State.lean ====
section
/-! SUPPORT. One lemma per field per named update of the state, true by rfl: later proofs rewrite with these and unfold no
record update. -/

namespace Sys2Proof.Machine

/-! ## setPin -/

@[simp] theorem setPin_cfg (id : OutPin) (level : Bool) (s : State) : (setPin id level s).cfg = s.cfg := rfl
@[simp] theorem setPin_env (id : OutPin) (level : Bool) (s : State) : (setPin id level s).env = s.env := rfl
@[simp] theorem setPin_motor (id : OutPin) (level : Bool) (s : State) : (setPin id level s).motor = s.motor := rfl
@[simp] theorem setPin_c1 (id : OutPin) (level : Bool) (s : State) : (setPin id level s).c1 = s.c1 := rfl
@[simp] theorem setPin_imaging (id : OutPin) (level : Bool) (s : State) :
    (setPin id level s).imaging =
    s.imaging := rfl
@[simp] theorem setPin_c0 (id : OutPin) (level : Bool) (s : State) : (setPin id level s).c0 = s.c0 := rfl
@[simp] theorem setPin_chan (id : OutPin) (level : Bool) (s : State) : (setPin id level s).chan = s.chan := rfl
@[simp] theorem setPin_fb (id : OutPin) (level : Bool) (s : State) : (setPin id level s).fb = s.fb := rfl
@[simp] theorem setPin_pins (id : OutPin) (level : Bool) (s : State) :
    (setPin id level s).pins =
    pinsWith id level s.pins := rfl
@[simp] theorem setPin_alarms (id : OutPin) (level : Bool) (s : State) : (setPin id level s).alarms = s.alarms := rfl
@[simp] theorem setPin_hostOut (id : OutPin) (level : Bool) (s : State) :
    (setPin id level s).hostOut =
    s.hostOut := rfl
@[simp] theorem setPin_pinTrace (id : OutPin) (level : Bool) (s : State) :
    (setPin id level s).pinTrace =
    s.pinTrace ++ [.pin id level] := rfl
@[simp] theorem setPin_dropLog (id : OutPin) (level : Bool) (s : State) :
    (setPin id level s).dropLog =
    s.dropLog := rfl
@[simp] theorem setPin_faults (id : OutPin) (level : Bool) (s : State) : (setPin id level s).faults = s.faults := rfl

/-! ## hold -/

@[simp] theorem hold_cfg (us : Nat) (s : State) : (hold us s).cfg = s.cfg := rfl
@[simp] theorem hold_env (us : Nat) (s : State) : (hold us s).env = s.env := rfl
@[simp] theorem hold_motor (us : Nat) (s : State) : (hold us s).motor = s.motor := rfl
@[simp] theorem hold_c1 (us : Nat) (s : State) : (hold us s).c1 = s.c1 := rfl
@[simp] theorem hold_imaging (us : Nat) (s : State) : (hold us s).imaging = s.imaging := rfl
@[simp] theorem hold_c0 (us : Nat) (s : State) : (hold us s).c0 = s.c0 := rfl
@[simp] theorem hold_chan (us : Nat) (s : State) : (hold us s).chan = s.chan := rfl
@[simp] theorem hold_fb (us : Nat) (s : State) : (hold us s).fb = s.fb := rfl
@[simp] theorem hold_pins (us : Nat) (s : State) : (hold us s).pins = s.pins := rfl
@[simp] theorem hold_alarms (us : Nat) (s : State) : (hold us s).alarms = s.alarms := rfl
@[simp] theorem hold_hostOut (us : Nat) (s : State) : (hold us s).hostOut = s.hostOut := rfl
@[simp] theorem hold_pinTrace (us : Nat) (s : State) : (hold us s).pinTrace = s.pinTrace ++ [.hold us] := rfl
@[simp] theorem hold_dropLog (us : Nat) (s : State) : (hold us s).dropLog = s.dropLog := rfl
@[simp] theorem hold_faults (us : Nat) (s : State) : (hold us s).faults = s.faults := rfl

/-! ## emit -/

@[simp] theorem emit_cfg (cs : List Byte) (s : State) : (emit cs s).cfg = s.cfg := rfl
@[simp] theorem emit_env (cs : List Byte) (s : State) : (emit cs s).env = s.env := rfl
@[simp] theorem emit_motor (cs : List Byte) (s : State) : (emit cs s).motor = s.motor := rfl
@[simp] theorem emit_c1 (cs : List Byte) (s : State) : (emit cs s).c1 = s.c1 := rfl
@[simp] theorem emit_imaging (cs : List Byte) (s : State) : (emit cs s).imaging = s.imaging := rfl
@[simp] theorem emit_c0 (cs : List Byte) (s : State) : (emit cs s).c0 = s.c0 := rfl
@[simp] theorem emit_chan (cs : List Byte) (s : State) : (emit cs s).chan = s.chan := rfl
@[simp] theorem emit_fb (cs : List Byte) (s : State) : (emit cs s).fb = s.fb := rfl
@[simp] theorem emit_pins (cs : List Byte) (s : State) : (emit cs s).pins = s.pins := rfl
@[simp] theorem emit_alarms (cs : List Byte) (s : State) : (emit cs s).alarms = s.alarms := rfl
@[simp] theorem emit_hostOut (cs : List Byte) (s : State) : (emit cs s).hostOut = s.hostOut ++ cs := rfl
@[simp] theorem emit_pinTrace (cs : List Byte) (s : State) : (emit cs s).pinTrace = s.pinTrace := rfl
@[simp] theorem emit_dropLog (cs : List Byte) (s : State) : (emit cs s).dropLog = s.dropLog := rfl
@[simp] theorem emit_faults (cs : List Byte) (s : State) : (emit cs s).faults = s.faults := rfl

/-! ## logDrop -/

@[simp] theorem logDrop_cfg (e : DropEvent) (s : State) : (logDrop e s).cfg = s.cfg := rfl
@[simp] theorem logDrop_env (e : DropEvent) (s : State) : (logDrop e s).env = s.env := rfl
@[simp] theorem logDrop_motor (e : DropEvent) (s : State) : (logDrop e s).motor = s.motor := rfl
@[simp] theorem logDrop_c1 (e : DropEvent) (s : State) : (logDrop e s).c1 = s.c1 := rfl
@[simp] theorem logDrop_imaging (e : DropEvent) (s : State) : (logDrop e s).imaging = s.imaging := rfl
@[simp] theorem logDrop_c0 (e : DropEvent) (s : State) : (logDrop e s).c0 = s.c0 := rfl
@[simp] theorem logDrop_chan (e : DropEvent) (s : State) : (logDrop e s).chan = s.chan := rfl
@[simp] theorem logDrop_fb (e : DropEvent) (s : State) : (logDrop e s).fb = s.fb := rfl
@[simp] theorem logDrop_pins (e : DropEvent) (s : State) : (logDrop e s).pins = s.pins := rfl
@[simp] theorem logDrop_alarms (e : DropEvent) (s : State) : (logDrop e s).alarms = s.alarms := rfl
@[simp] theorem logDrop_hostOut (e : DropEvent) (s : State) : (logDrop e s).hostOut = s.hostOut := rfl
@[simp] theorem logDrop_pinTrace (e : DropEvent) (s : State) : (logDrop e s).pinTrace = s.pinTrace := rfl
@[simp] theorem logDrop_dropLog (e : DropEvent) (s : State) : (logDrop e s).dropLog = s.dropLog ++ [e] := rfl
@[simp] theorem logDrop_faults (e : DropEvent) (s : State) : (logDrop e s).faults = s.faults := rfl

/-! ## scheduleAlarm -/

@[simp] theorem scheduleAlarm_cfg (ms : Nat) (kind : AlarmKind) (s : State) :
    (scheduleAlarm ms kind s).cfg =
    s.cfg := rfl
@[simp] theorem scheduleAlarm_env (ms : Nat) (kind : AlarmKind) (s : State) :
    (scheduleAlarm ms kind s).env =
    s.env := rfl
@[simp] theorem scheduleAlarm_motor (ms : Nat) (kind : AlarmKind) (s : State) :
    (scheduleAlarm ms kind s).motor =
    s.motor := rfl
@[simp] theorem scheduleAlarm_c1 (ms : Nat) (kind : AlarmKind) (s : State) : (scheduleAlarm ms kind s).c1 = s.c1 := rfl
@[simp] theorem scheduleAlarm_imaging (ms : Nat) (kind : AlarmKind) (s : State) :
    (scheduleAlarm ms kind s).imaging =
    s.imaging := rfl
@[simp] theorem scheduleAlarm_c0 (ms : Nat) (kind : AlarmKind) (s : State) : (scheduleAlarm ms kind s).c0 = s.c0 := rfl
@[simp] theorem scheduleAlarm_chan (ms : Nat) (kind : AlarmKind) (s : State) :
    (scheduleAlarm ms kind s).chan =
    s.chan := rfl
@[simp] theorem scheduleAlarm_fb (ms : Nat) (kind : AlarmKind) (s : State) : (scheduleAlarm ms kind s).fb = s.fb := rfl
@[simp] theorem scheduleAlarm_pins (ms : Nat) (kind : AlarmKind) (s : State) :
    (scheduleAlarm ms kind s).pins =
    s.pins := rfl
@[simp] theorem scheduleAlarm_alarms (ms : Nat) (kind : AlarmKind) (s : State) :
    (scheduleAlarm ms kind s).alarms =
    insertAlarm { kind := kind, delayMs := ms } s.alarms := rfl
@[simp] theorem scheduleAlarm_hostOut (ms : Nat) (kind : AlarmKind) (s : State) :
    (scheduleAlarm ms kind s).hostOut =
    s.hostOut := rfl
@[simp] theorem scheduleAlarm_pinTrace (ms : Nat) (kind : AlarmKind) (s : State) :
    (scheduleAlarm ms kind s).pinTrace =
    s.pinTrace := rfl
@[simp] theorem scheduleAlarm_dropLog (ms : Nat) (kind : AlarmKind) (s : State) :
    (scheduleAlarm ms kind s).dropLog =
    s.dropLog := rfl
@[simp] theorem scheduleAlarm_faults (ms : Nat) (kind : AlarmKind) (s : State) :
    (scheduleAlarm ms kind s).faults =
    s.faults := rfl

/-! ## raiseDefect -/

@[simp] theorem raiseDefect_cfg (r : DefectReason) (s : State) : (raiseDefect r s).cfg = s.cfg := rfl
@[simp] theorem raiseDefect_env (r : DefectReason) (s : State) : (raiseDefect r s).env = s.env := rfl
@[simp] theorem raiseDefect_motor (r : DefectReason) (s : State) : (raiseDefect r s).motor = s.motor := rfl
@[simp] theorem raiseDefect_c1 (r : DefectReason) (s : State) : (raiseDefect r s).c1 = s.c1 := rfl
@[simp] theorem raiseDefect_imaging (r : DefectReason) (s : State) : (raiseDefect r s).imaging = s.imaging := rfl
@[simp] theorem raiseDefect_c0 (r : DefectReason) (s : State) : (raiseDefect r s).c0 = s.c0 := rfl
@[simp] theorem raiseDefect_chan (r : DefectReason) (s : State) : (raiseDefect r s).chan = s.chan := rfl
@[simp] theorem raiseDefect_fb (r : DefectReason) (s : State) : (raiseDefect r s).fb = s.fb := rfl
@[simp] theorem raiseDefect_pins (r : DefectReason) (s : State) : (raiseDefect r s).pins = s.pins := rfl
@[simp] theorem raiseDefect_alarms (r : DefectReason) (s : State) : (raiseDefect r s).alarms = s.alarms := rfl
@[simp] theorem raiseDefect_hostOut (r : DefectReason) (s : State) : (raiseDefect r s).hostOut = s.hostOut := rfl
@[simp] theorem raiseDefect_pinTrace (r : DefectReason) (s : State) : (raiseDefect r s).pinTrace = s.pinTrace := rfl
@[simp] theorem raiseDefect_dropLog (r : DefectReason) (s : State) : (raiseDefect r s).dropLog = s.dropLog := rfl
@[simp] theorem raiseDefect_faults (r : DefectReason) (s : State) : (raiseDefect r s).faults = s.faults ++ [r] := rfl

/-! ## send -/

@[simp] theorem send_cfg (req : MotionRequest) (s : State) : (send req s).cfg = s.cfg := rfl
@[simp] theorem send_env (req : MotionRequest) (s : State) : (send req s).env = s.env := rfl
@[simp] theorem send_motor (req : MotionRequest) (s : State) : (send req s).motor = s.motor := rfl
@[simp] theorem send_c1 (req : MotionRequest) (s : State) : (send req s).c1 = s.c1 := rfl
@[simp] theorem send_imaging (req : MotionRequest) (s : State) : (send req s).imaging = s.imaging := rfl
@[simp] theorem send_c0 (req : MotionRequest) (s : State) :
    (send req s).c0 =
    { s.c0 with pendingSend := some (encodeRequest req), sendAttempts := 0 } := rfl
@[simp] theorem send_chan (req : MotionRequest) (s : State) : (send req s).chan = s.chan := rfl
@[simp] theorem send_fb (req : MotionRequest) (s : State) : (send req s).fb = s.fb := rfl
@[simp] theorem send_pins (req : MotionRequest) (s : State) : (send req s).pins = s.pins := rfl
@[simp] theorem send_alarms (req : MotionRequest) (s : State) : (send req s).alarms = s.alarms := rfl
@[simp] theorem send_hostOut (req : MotionRequest) (s : State) : (send req s).hostOut = s.hostOut := rfl
@[simp] theorem send_pinTrace (req : MotionRequest) (s : State) : (send req s).pinTrace = s.pinTrace := rfl
@[simp] theorem send_dropLog (req : MotionRequest) (s : State) : (send req s).dropLog = s.dropLog := rfl
@[simp] theorem send_faults (req : MotionRequest) (s : State) : (send req s).faults = s.faults := rfl

/-! ## reportFinal -/

@[simp] theorem reportFinal_cfg (s : State) : (reportFinal s).cfg = s.cfg := rfl
@[simp] theorem reportFinal_env (s : State) : (reportFinal s).env = s.env := rfl
@[simp] theorem reportFinal_motor (s : State) : (reportFinal s).motor = s.motor := rfl
@[simp] theorem reportFinal_c1 (s : State) :
    (reportFinal s).c1 =
    { s.c1 with pendingFinal := fbWord s, phase := .finalReport } := rfl
@[simp] theorem reportFinal_imaging (s : State) : (reportFinal s).imaging = s.imaging := rfl
@[simp] theorem reportFinal_c0 (s : State) : (reportFinal s).c0 = s.c0 := rfl
@[simp] theorem reportFinal_chan (s : State) : (reportFinal s).chan = s.chan := rfl
@[simp] theorem reportFinal_fb (s : State) : (reportFinal s).fb = s.fb := rfl
@[simp] theorem reportFinal_pins (s : State) : (reportFinal s).pins = s.pins := rfl
@[simp] theorem reportFinal_alarms (s : State) : (reportFinal s).alarms = s.alarms := rfl
@[simp] theorem reportFinal_hostOut (s : State) : (reportFinal s).hostOut = s.hostOut := rfl
@[simp] theorem reportFinal_pinTrace (s : State) : (reportFinal s).pinTrace = s.pinTrace := rfl
@[simp] theorem reportFinal_dropLog (s : State) : (reportFinal s).dropLog = s.dropLog := rfl
@[simp] theorem reportFinal_faults (s : State) : (reportFinal s).faults = s.faults := rfl

/-! ## startMotion -/

@[simp] theorem startMotion_cfg (t : Position) (s : State) : (startMotion t s).cfg = s.cfg := rfl
@[simp] theorem startMotion_env (t : Position) (s : State) : (startMotion t s).env = s.env := rfl
@[simp] theorem startMotion_motor (t : Position) (s : State) :
    (startMotion t s).motor =
    motorStarted s.cfg.rampMaxMs t s.motor := rfl
@[simp] theorem startMotion_c1 (t : Position) (s : State) : (startMotion t s).c1 = s.c1 := rfl
@[simp] theorem startMotion_imaging (t : Position) (s : State) : (startMotion t s).imaging = s.imaging := rfl
@[simp] theorem startMotion_c0 (t : Position) (s : State) : (startMotion t s).c0 = s.c0 := rfl
@[simp] theorem startMotion_chan (t : Position) (s : State) : (startMotion t s).chan = s.chan := rfl
@[simp] theorem startMotion_fb (t : Position) (s : State) : (startMotion t s).fb = s.fb := rfl
@[simp] theorem startMotion_pins (t : Position) (s : State) :
    (startMotion t s).pins =
    { s.pins with dir := isForward (directionToward t s.motor.currentPosition s.motor.direction), stop := false } := rfl
@[simp] theorem startMotion_alarms (t : Position) (s : State) : (startMotion t s).alarms = s.alarms := rfl
@[simp] theorem startMotion_hostOut (t : Position) (s : State) : (startMotion t s).hostOut = s.hostOut := rfl
@[simp] theorem startMotion_pinTrace (t : Position) (s : State) :
    (startMotion t s).pinTrace =
    s.pinTrace ++ [.pin .dir (isForward (directionToward t s.motor.currentPosition s.motor.direction))] ++ [.pin .stop false] := rfl
@[simp] theorem startMotion_dropLog (t : Position) (s : State) : (startMotion t s).dropLog = s.dropLog := rfl
@[simp] theorem startMotion_faults (t : Position) (s : State) : (startMotion t s).faults = s.faults := rfl

/-! ## advance -/

@[simp] theorem advance_cfg (s : State) : (advance s).cfg = s.cfg := rfl
@[simp] theorem advance_env (s : State) : (advance s).env = nextEnv s.env := rfl
@[simp] theorem advance_motor (s : State) : (advance s).motor = s.motor := rfl
@[simp] theorem advance_c1 (s : State) : (advance s).c1 = s.c1 := rfl
@[simp] theorem advance_imaging (s : State) : (advance s).imaging = s.imaging := rfl
@[simp] theorem advance_c0 (s : State) : (advance s).c0 = s.c0 := rfl
@[simp] theorem advance_chan (s : State) : (advance s).chan = s.chan := rfl
@[simp] theorem advance_fb (s : State) : (advance s).fb = s.fb := rfl
@[simp] theorem advance_pins (s : State) : (advance s).pins = s.pins := rfl
@[simp] theorem advance_alarms (s : State) : (advance s).alarms = s.alarms := rfl
@[simp] theorem advance_hostOut (s : State) : (advance s).hostOut = s.hostOut := rfl
@[simp] theorem advance_pinTrace (s : State) : (advance s).pinTrace = s.pinTrace := rfl
@[simp] theorem advance_dropLog (s : State) : (advance s).dropLog = s.dropLog := rfl
@[simp] theorem advance_faults (s : State) : (advance s).faults = s.faults := rfl

/-! ## leaveGetChar -/

@[simp] theorem leaveGetChar_cfg (s : State) : (leaveGetChar s).cfg = s.cfg := rfl
@[simp] theorem leaveGetChar_env (s : State) : (leaveGetChar s).env = s.env := rfl
@[simp] theorem leaveGetChar_motor (s : State) : (leaveGetChar s).motor = s.motor := rfl
@[simp] theorem leaveGetChar_c1 (s : State) : (leaveGetChar s).c1 = s.c1 := rfl
@[simp] theorem leaveGetChar_imaging (s : State) : (leaveGetChar s).imaging = s.imaging := rfl
@[simp] theorem leaveGetChar_c0 (s : State) :
    (leaveGetChar s).c0 =
    { s.c0 with phase := if s.c0.pendingSend.isSome then .sending else .pollFeedback } := rfl
@[simp] theorem leaveGetChar_chan (s : State) : (leaveGetChar s).chan = s.chan := rfl
@[simp] theorem leaveGetChar_fb (s : State) : (leaveGetChar s).fb = s.fb := rfl
@[simp] theorem leaveGetChar_pins (s : State) : (leaveGetChar s).pins = s.pins := rfl
@[simp] theorem leaveGetChar_alarms (s : State) : (leaveGetChar s).alarms = s.alarms := rfl
@[simp] theorem leaveGetChar_hostOut (s : State) : (leaveGetChar s).hostOut = s.hostOut := rfl
@[simp] theorem leaveGetChar_pinTrace (s : State) : (leaveGetChar s).pinTrace = s.pinTrace := rfl
@[simp] theorem leaveGetChar_dropLog (s : State) : (leaveGetChar s).dropLog = s.dropLog := rfl
@[simp] theorem leaveGetChar_faults (s : State) : (leaveGetChar s).faults = s.faults := rfl

/-! ## sendDone -/

@[simp] theorem sendDone_cfg (s : State) : (sendDone s).cfg = s.cfg := rfl
@[simp] theorem sendDone_env (s : State) : (sendDone s).env = s.env := rfl
@[simp] theorem sendDone_motor (s : State) : (sendDone s).motor = s.motor := rfl
@[simp] theorem sendDone_c1 (s : State) : (sendDone s).c1 = s.c1 := rfl
@[simp] theorem sendDone_imaging (s : State) : (sendDone s).imaging = s.imaging := rfl
@[simp] theorem sendDone_c0 (s : State) :
    (sendDone s).c0 =
    { s.c0 with pendingSend := none, sendAttempts := 0, phase := .pollFeedback } := rfl
@[simp] theorem sendDone_chan (s : State) : (sendDone s).chan = s.chan := rfl
@[simp] theorem sendDone_fb (s : State) : (sendDone s).fb = s.fb := rfl
@[simp] theorem sendDone_pins (s : State) : (sendDone s).pins = s.pins := rfl
@[simp] theorem sendDone_alarms (s : State) : (sendDone s).alarms = s.alarms := rfl
@[simp] theorem sendDone_hostOut (s : State) : (sendDone s).hostOut = s.hostOut := rfl
@[simp] theorem sendDone_pinTrace (s : State) : (sendDone s).pinTrace = s.pinTrace := rfl
@[simp] theorem sendDone_dropLog (s : State) : (sendDone s).dropLog = s.dropLog := rfl
@[simp] theorem sendDone_faults (s : State) : (sendDone s).faults = s.faults := rfl

/-! ## reachTarget -/

@[simp] theorem reachTarget_cfg (s : State) : (reachTarget s).cfg = s.cfg := rfl
@[simp] theorem reachTarget_env (s : State) : (reachTarget s).env = s.env := rfl
@[simp] theorem reachTarget_motor (s : State) : (reachTarget s).motor = { s.motor with mode := .idle } := rfl
@[simp] theorem reachTarget_c1 (s : State) :
    (reachTarget s).c1 =
    { s.c1 with pendingFinal := fbWord s, phase := .finalReport } := rfl
@[simp] theorem reachTarget_imaging (s : State) : (reachTarget s).imaging = s.imaging := rfl
@[simp] theorem reachTarget_c0 (s : State) : (reachTarget s).c0 = s.c0 := rfl
@[simp] theorem reachTarget_chan (s : State) : (reachTarget s).chan = s.chan := rfl
@[simp] theorem reachTarget_fb (s : State) : (reachTarget s).fb = s.fb := rfl
@[simp] theorem reachTarget_pins (s : State) : (reachTarget s).pins = s.pins := rfl
@[simp] theorem reachTarget_alarms (s : State) :
    (reachTarget s).alarms =
    insertAlarm { kind := .cooldown, delayMs := s.cfg.cooldownMs } s.alarms := rfl
@[simp] theorem reachTarget_hostOut (s : State) : (reachTarget s).hostOut = s.hostOut := rfl
@[simp] theorem reachTarget_pinTrace (s : State) : (reachTarget s).pinTrace = s.pinTrace := rfl
@[simp] theorem reachTarget_dropLog (s : State) : (reachTarget s).dropLog = s.dropLog := rfl
@[simp] theorem reachTarget_faults (s : State) : (reachTarget s).faults = s.faults := rfl

/-! ## stepPulse -/

@[simp] theorem stepPulse_cfg (s : State) : (stepPulse s).cfg = s.cfg := rfl
@[simp] theorem stepPulse_env (s : State) : (stepPulse s).env = s.env := rfl
@[simp] theorem stepPulse_motor (s : State) : (stepPulse s).motor = s.motor := rfl
@[simp] theorem stepPulse_c1 (s : State) : (stepPulse s).c1 = s.c1 := rfl
@[simp] theorem stepPulse_imaging (s : State) : (stepPulse s).imaging = s.imaging := rfl
@[simp] theorem stepPulse_c0 (s : State) : (stepPulse s).c0 = s.c0 := rfl
@[simp] theorem stepPulse_chan (s : State) : (stepPulse s).chan = s.chan := rfl
@[simp] theorem stepPulse_fb (s : State) : (stepPulse s).fb = s.fb := rfl
@[simp] theorem stepPulse_pins (s : State) : (stepPulse s).pins = { s.pins with step := false } := rfl
@[simp] theorem stepPulse_alarms (s : State) : (stepPulse s).alarms = s.alarms := rfl
@[simp] theorem stepPulse_hostOut (s : State) : (stepPulse s).hostOut = s.hostOut := rfl
@[simp] theorem stepPulse_pinTrace (s : State) :
    (stepPulse s).pinTrace =
    s.pinTrace ++ [.pin .step true] ++ [.hold (s.motor.stepIntervalMs.toNat * 1000)] ++ [.pin .step false] ++
      [.hold (s.motor.stepIntervalMs.toNat * 1000)] := rfl
@[simp] theorem stepPulse_dropLog (s : State) : (stepPulse s).dropLog = s.dropLog := rfl
@[simp] theorem stepPulse_faults (s : State) : (stepPulse s).faults = s.faults := rfl

/-! ## pulseRegisters -/

@[simp] theorem pulseRegisters_cfg (s : State) : (pulseRegisters s).cfg = s.cfg := rfl
@[simp] theorem pulseRegisters_env (s : State) : (pulseRegisters s).env = s.env := rfl
@[simp] theorem pulseRegisters_motor (s : State) :
    (pulseRegisters s).motor =
    { s.motor with
      currentPosition := pulsedPosition s.motor.direction s.motor.currentPosition
      stepsRemaining := s.motor.stepsRemaining - 1
      stepIntervalMs := rampInterval s.cfg.rampFloorMs s.cfg.rampStepMs s.motor.stepIntervalMs } := rfl
@[simp] theorem pulseRegisters_c1 (s : State) :
    (pulseRegisters s).c1 =
    { s.c1 with batchCount := s.c1.batchCount + 1 } := rfl
@[simp] theorem pulseRegisters_imaging (s : State) : (pulseRegisters s).imaging = s.imaging := rfl
@[simp] theorem pulseRegisters_c0 (s : State) : (pulseRegisters s).c0 = s.c0 := rfl
@[simp] theorem pulseRegisters_chan (s : State) : (pulseRegisters s).chan = s.chan := rfl
@[simp] theorem pulseRegisters_fb (s : State) : (pulseRegisters s).fb = s.fb := rfl
@[simp] theorem pulseRegisters_pins (s : State) : (pulseRegisters s).pins = s.pins := rfl
@[simp] theorem pulseRegisters_alarms (s : State) : (pulseRegisters s).alarms = s.alarms := rfl
@[simp] theorem pulseRegisters_hostOut (s : State) : (pulseRegisters s).hostOut = s.hostOut := rfl
@[simp] theorem pulseRegisters_pinTrace (s : State) : (pulseRegisters s).pinTrace = s.pinTrace := rfl
@[simp] theorem pulseRegisters_dropLog (s : State) : (pulseRegisters s).dropLog = s.dropLog := rfl
@[simp] theorem pulseRegisters_faults (s : State) : (pulseRegisters s).faults = s.faults := rfl

end Sys2Proof.Machine
end

