-- ==== Sys2Proof/Laws/Ops.lean ====
section
/-! SUPPORT. What each shared operation and each agent's step can do, said once: the mailboxes, the reports, the click, the
outcomes, and the inversion of a step into its agent's step. Proofs cite these instead of unfolding the operations. -/

namespace Sys2Proof.Machine

/-! ## Outcomes -/

@[simp] theorem thenDo_next (s : State) (f : State → State) : thenDo (.next s) f = .next (f s) := rfl

/-- A chained outcome is a next state exactly when the first one is. -/
theorem thenDo_eq_next {o : Host.Outcome State Fault Refusal} {f : State → State} {t : State} :
    thenDo o f = .next t ↔ ∃ u, o = .next u ∧ f u = t := by
  cases o <;> simp [thenDo]

/-! ## Mailboxes -/

@[simp] theorem slotTryPut_none (w : Word32) : slotTryPut none w = (true, some w) := rfl
@[simp] theorem slotTryPut_some (h w : Word32) : slotTryPut (some h) w = (false, some h) := rfl
@[simp] theorem slotFull_none : slotFull none = false := rfl
@[simp] theorem slotFull_some (h : Word32) : slotFull (some h) = true := rfl

/-- An intermediate report in terms of `fb` (42_channel.md R216). -/
theorem reportIntermediate_eq (s : State) :
    reportIntermediate s = match s.fb with
      | none => { s with fb := some (fbWord s) }
      | some _ => logDrop (.droppedReport (fbWord s)) s := by
  unfold reportIntermediate
  cases s.fb <;> rfl

/-! ## Alarms -/

@[simp] theorem insertAlarm_nil (a : Alarm) : insertAlarm a [] = [a] := rfl

/-- The inserted alarm and the old ones are what the list then holds. -/
theorem mem_insertAlarm {a b : Alarm} {as : List Alarm} : b ∈ insertAlarm a as ↔ b = a ∨ b ∈ as := by
  induction as with
  | nil => simp
  | cons c cs ih =>
    unfold insertAlarm
    split
    · simp
    · simp only [List.mem_cons, ih]; tauto

/-! ## Pins -/

@[simp] theorem pinLevel_pinsWith (id id' : OutPin) (level : Bool) (p : Pins) :
    pinLevel id (pinsWith id' level p) = if id' = id then level else pinLevel id p := by
  cases id <;> cases id' <;> rfl

/-! ## Requests and verbs -/

/-- Every instruction runs: exec answers a next state for each, in every state. -/
theorem exec_answers_next (i : Instr) (s : State) : ∃ t, exec i s = .next t := by
  cases i with
  | go => cases h : s.motor.mode <;> exact ⟨_, by simp only [exec, execGo, h]; rfl⟩
  | _ => exact ⟨_, rfl⟩

/-- Starting a motion as one record update (43_motion_requests.md R240). -/
theorem startMotion_eq (t : Position) (s : State) :
    startMotion t s = { s with
      motor := motorStarted s.cfg.rampMaxMs t s.motor
      pins := { s.pins with
        dir := isForward (directionToward t s.motor.currentPosition s.motor.direction), stop := false }
      pinTrace := s.pinTrace ++
        [.pin .dir (isForward (directionToward t s.motor.currentPosition s.motor.direction)), .pin .stop false] } := by
  simp [startMotion, setPin, pinsWith, motorStarted]

/-! ## The click -/

/-- A burst touches nothing but the IR pin and the pin trace (46_intervalometer.md R326). -/
theorem irBurst_frame (us n : Nat) (s : State) :
    irBurst us n s = { s with pins := (irBurst us n s).pins, pinTrace := (irBurst us n s).pinTrace } := by
  induction n generalizing s with
  | zero => rfl
  | succ n ih => rw [irBurst, ih]; rfl

/-- A click touches nothing but the IR pin and the pin trace (46_intervalometer.md R326). -/
theorem irBursts_frame (pulses us gapUs n : Nat) (s : State) :
    irBursts pulses us gapUs n s =
      { s with pins := (irBursts pulses us gapUs n s).pins, pinTrace := (irBursts pulses us gapUs n s).pinTrace } := by
  induction n generalizing s with
  | zero => rfl
  | succ n ih =>
    cases n with
    | zero => exact irBurst_frame us pulses s
    | succ n => rw [irBursts, ih]; rw [irBurst_frame]; rfl

/-- FireClick touches nothing but the IR pin and the pin trace (46_intervalometer.md R326, R329). -/
theorem fireClick_frame (s : State) :
    fireClick s = { s with pins := (fireClick s).pins, pinTrace := (fireClick s).pinTrace } :=
  irBursts_frame _ _ _ _ s

/-- Where the IR pin stands after a burst (46_intervalometer.md R326). -/
theorem irBurst_pins (us n : Nat) (s : State) :
    (irBurst us n s).pins = { s.pins with ir := if n = 0 then s.pins.ir else false } := by
  induction n generalizing s with
  | zero => rfl
  | succ n ih => rw [irBurst, ih]; simp [irPulse, pinsWith]

/-- A click leaves the pins as they are where IR is low before it (46_intervalometer.md R326). -/
theorem fireClick_pins (s : State) (h : s.pins.ir = false) : (fireClick s).pins = s.pins := by
  have burst : ∀ (us n : Nat) (x : State), x.pins.ir = false → (irBurst us n x).pins = x.pins := by
    intro us n x hx
    rw [irBurst_pins, ← hx, ite_self]
  unfold fireClick
  generalize s.cfg.irBursts = n
  suffices ∀ (p us g : Nat) (x : State), x.pins.ir = false → (irBursts p us g n x).pins = x.pins from this _ _ _ s h
  intro p us g x hx
  induction n generalizing x with
  | zero => rfl
  | succ n ih =>
    cases n with
    | zero => exact burst us p x hx
    | succ n => rw [irBursts, ih _ (by simp [burst us p x hx, hx])]; simp [burst us p x hx]

/-- The imaging registers do not matter to a click (46_intervalometer.md R326). -/
theorem fireClick_imaging (m : ImagingState) (s : State) :
    fireClick { s with imaging := m } = { fireClick s with imaging := m } := by
  have burst : ∀ (us n : Nat) (x : State), irBurst us n { x with imaging := m } = { irBurst us n x with imaging := m } := by
    intro us n
    induction n with
    | zero => exact fun _ => rfl
    | succ n ih => exact fun x => ih (irPulse us x)
  unfold fireClick
  generalize s.cfg.irBursts = n
  suffices ∀ (p us g : Nat) (x : State),
      irBursts p us g n { x with imaging := m } = { irBursts p us g n x with imaging := m } from this _ _ _ s
  intro p us g
  induction n with
  | zero => exact fun _ => rfl
  | succ n ih =>
    cases n with
    | zero => exact burst us p
    | succ n => exact fun x => by rw [irBursts, burst]; exact ih (hold g (irBurst us p x))

/-- What the service of a click does where IR is low before it (46_intervalometer.md R322): the imaging registers, the
alarm it arms, and the click on the pin trace. -/
theorem serviceClick_spec (sw : Bool) (s : State) (h : s.pins.ir = false) :
    serviceClick sw s = { s with
      pinTrace := (fireClick s).pinTrace
      imaging :=
        { started := s.imaging.started && (!s.imaging.shutterOpen || sw), shutterOpen := !s.imaging.shutterOpen,
          clickRequired := false }
      alarms :=
        if s.imaging.shutterOpen then
          if sw then insertAlarm { kind := .pause, delayMs := s.cfg.pauseMs } s.alarms else s.alarms
        else insertAlarm { kind := .exposure, delayMs := s.cfg.exposureMs } s.alarms } := by
  have hc := fireClick_frame s
  rw [fireClick_pins s h] at hc
  unfold serviceClick
  rw [fireClick_imaging, hc]
  generalize (fireClick s).pinTrace = trace
  unfold armAfterClick
  cases ho : s.imaging.shutterOpen <;> cases sw <;> simp [scheduleAlarm, ho]

/-! ## Stepping -/

/-- A pulse as one record update (44_stepping.md R275, R276). -/
theorem pulseRegisters_eq (s : State) :
    pulseRegisters (stepPulse s) = { s with
      motor := { s.motor with
        currentPosition := pulsedPosition s.motor.direction s.motor.currentPosition
        stepsRemaining := s.motor.stepsRemaining - 1
        stepIntervalMs := rampInterval s.cfg.rampFloorMs s.cfg.rampStepMs s.motor.stepIntervalMs }
      c1 := { s.c1 with batchCount := s.c1.batchCount + 1 }
      pins := { s.pins with step := false }
      pinTrace := s.pinTrace ++ [.pin .step true, .hold (s.motor.stepIntervalMs.toNat * 1000), .pin .step false,
        .hold (s.motor.stepIntervalMs.toNat * 1000)] } := by
  simp [pulseRegisters, stepPulse, hold, setPin, pinsWith]

/-- What a Motion step can be (44_stepping.md R274). -/
theorem motionStep_cases (s : State) :
    (s.motor.mode ≠ .stepping ∧ motionStep s = { s with c1 := { s.c1 with phase := .override } }) ∨
    (s.motor.mode = .stepping ∧ s.motor.currentPosition = s.motor.targetPosition ∧
      motionStep s = reachTarget { s with c1 := { s.c1 with batchCount := 0 } }) ∨
    (s.motor.mode = .stepping ∧ s.motor.currentPosition ≠ s.motor.targetPosition ∧
      motionStep s = { s with c1 := { s.c1 with phase := .pulsing, batchCount := 0 } }) := by
  unfold motionStep
  split
  · dsimp only
    split
    · exact .inr (.inl ⟨by assumption, by assumption, rfl⟩)
    · exact .inr (.inr ⟨by assumption, by assumption, rfl⟩)
  · exact .inl ⟨by assumption, rfl⟩

/-! ## The codec -/

/-- What a character leaves of a codec state that holds at most `cap` kept characters, and none outside a frame
(10_state.md R33; 40_codec.md R131 to R135). -/
theorem codecFeed_keeps {cap : Nat} {c : Codec} (ch : Byte) (bounded : c.rxBuf.length ≤ cap)
    (kept : ∀ b ∈ c.rxBuf, isDataChar b = true) (outside : c.inFrame = false → c.rxBuf = []) :
    (codecFeed cap c ch).1.rxBuf.length ≤ cap ∧ (∀ b ∈ (codecFeed cap c ch).1.rxBuf, isDataChar b = true) ∧
    ((codecFeed cap c ch).1.inFrame = false → (codecFeed cap c ch).1.rxBuf = []) := by
  have hd : charClass ch = .data → isDataChar ch = true := by unfold charClass; split_ifs <;> simp_all
  unfold codecFeed
  cases hc : charClass ch with
  | frameStart => simp
  | frameEnd => simp only; split <;> simp_all
  | data =>
    simp only
    split
    · rename_i h
      simp only [Bool.and_eq_true, decide_eq_true_eq] at h
      refine ⟨by simp; omega, fun b hb => ?_, by simp [h.1]⟩
      rcases List.mem_append.1 hb with hb | hb
      · exact kept b hb
      · rw [List.mem_singleton.1 hb]; exact hd hc
    · exact ⟨bounded, kept, outside⟩
  | other => exact ⟨bounded, kept, outside⟩

/-- No kept buffer decodes to a channel request: those come from channel words alone (30_encoding.md R100). -/
theorem decodeBuffer_ne_request (c : Config) (buf : List Byte) (r : MotionRequest) :
    decodeBuffer c buf ≠ Instr.ofRequest r := by
  have table : ∀ p ∈ verbTable, ∀ v, p.2 v ≠ Instr.ofRequest r := by
    intro p hp v
    simp only [verbTable, List.mem_cons, List.not_mem_nil, or_false] at hp
    rcases hp with rfl | rfl | rfl | rfl | rfl | rfl | rfl | rfl | rfl | rfl | rfl | rfl | rfl | rfl | rfl | rfl | rfl |
      rfl | rfl | rfl | rfl <;> cases r <;> exact nofun
  have mem : ∀ (k : Word16) (l : List (Word16 × (Word16 → Instr))) (b : Word16 → Instr),
      l.lookup k = some b → (k, b) ∈ l := by
    intro k l b h
    induction l with
    | nil => simp at h
    | cons x xs ih =>
      obtain ⟨a, c⟩ := x
      rw [List.lookup_cons] at h
      split at h
      · rename_i hk
        simp only [beq_iff_eq] at hk
        cases h
        rw [hk]
        exact List.mem_cons_self ..
      · exact List.mem_cons_of_mem _ (ih h)
  unfold decodeBuffer instrOfCommand
  cases (parse c buf).verb with
  | none => cases r <;> exact nofun
  | some verb =>
    simp only
    cases h : verbTable.lookup verb with
    | none => cases r <;> exact nofun
    | some build => exact table _ (mem _ _ _ h) _

/-- What a host verb can do (41_host_commands.md R160): it writes C0's registers, except the codec and the phase, and
appends to the output; it leaves the pending send or records a request with no attempt made. -/
theorem exec_host_frame {i : Instr} {s t : State} (verb : ∀ r, i ≠ Instr.ofRequest r) (h : exec i s = .next t) :
    t = { s with c0 := t.c0, hostOut := t.hostOut } ∧ s.hostOut <+: t.hostOut ∧
    t.c0.codec = s.c0.codec ∧ t.c0.phase = s.c0.phase ∧
    ((t.c0.pendingSend = s.c0.pendingSend ∧ t.c0.sendAttempts = s.c0.sendAttempts) ∨
      (t.c0.sendAttempts = 0 ∧ ∃ r, t.c0.pendingSend = some (encodeRequest r))) := by
  cases i with
  | target v => exact absurd rfl (verb (.target v))
  | stop => exact absurd rfl (verb .stop)
  | go => exact absurd rfl (verb .go)
  | recalibrate => exact absurd rfl (verb .recalibrate)
  | _ =>
    simp only [exec, execFq, execFg, execGh, execGc, execGi, execGn, execGp, execGt, execGv, execGd, execSd, execSf,
      execSh, execSn, execYb, execZb, execZt, execZa, execSp, execYt, execDb, execUnrecognized, doNothing, send, emit,
      Host.Outcome.next.injEq] at h
    subst h
    simp

/-- What a channel request can do (43_motion_requests.md R241): the motor registers, C1's sequencer, the pins and their
trace. -/
theorem exec_request_frame {r : MotionRequest} {s t : State} (h : exec (Instr.ofRequest r) s = .next t) :
    t = { s with motor := t.motor, pins := t.pins, pinTrace := t.pinTrace, c1 := t.c1 } ∧
    s.pinTrace <+: t.pinTrace := by
  cases r with
  | target v => cases h; simp [startMotion_eq]
  | stop => cases h; exact ⟨rfl, by simp⟩
  | go =>
    simp only [Instr.ofRequest, exec, execGo] at h
    cases hm : s.motor.mode <;> simp only [hm] at h <;> cases h <;> simp [startMotion_eq]
  | recalibrate => cases h; simp [startMotion_eq]

/-! ## Inverting a step -/

/-- A step that answers a next state is an agent's step from a state without a Defect, and the next turn. -/
theorem step_eq_next {s t : State} :
    step s = .next t ↔ s.faults = [] ∧ ∃ u, agentStep s = .next u ∧ advance u = t := by
  unfold step blockStep
  cases h : s.faults with
  | nil => simp [thenDo_eq_next]
  | cons r rs => simp

/-- The agent's step by the turn's agent (00_scope.md R5). -/
theorem agentStep_cases {s u : State} (h : agentStep s = .next u) :
    (s.env.turn.agent = .c0 ∧ c0Step s = .next u) ∨ (s.env.turn.agent = .c1 ∧ c1Step s = .next u) ∨
    (s.env.turn.agent = .irq ∧ fireStep s = u) := by
  unfold agentStep at h
  cases ha : s.env.turn.agent <;> simp_all

/-- What C0's step can be (10_state.md R38). -/
theorem c0Step_cases {s u : State} (h : c0Step s = .next u) :
    (s.c0.phase = .getChar ∧ getCharStep s = .next u) ∨ (s.c0.phase = .sending ∧ sendingStep s = u) ∨
    (s.c0.phase = .pollFeedback ∧ pollFeedbackStep s = u) := by
  unfold c0Step at h
  cases hp : s.c0.phase <;> simp_all

/-- What a GetChar step can be: no character; a character that completes no frame; one that completes a frame, whose
instruction then runs (40_codec.md R130 to R135). -/
theorem getCharStep_cases {s u : State} (h : getCharStep s = .next u) :
    (s.env.turn.char = none ∧ leaveGetChar s = u) ∨
    (∃ ch, s.env.turn.char = some ch ∧ (codecFeed s.cfg.bufCap s.c0.codec ch).2 = none ∧
      leaveGetChar { s with c0 := { s.c0 with codec := (codecFeed s.cfg.bufCap s.c0.codec ch).1 } } = u) ∨
    (∃ ch buf v, s.env.turn.char = some ch ∧ (codecFeed s.cfg.bufCap s.c0.codec ch).2 = some buf ∧
      exec (decodeBuffer s.cfg buf) { s with c0 := { s.c0 with codec := (codecFeed s.cfg.bufCap s.c0.codec ch).1 } } =
        .next v ∧
      leaveGetChar v = u) := by
  unfold getCharStep nextChar at h
  cases hc : s.env.turn.char with
  | none => simp_all
  | some ch =>
    rw [hc] at h
    obtain ⟨v, hv, rfl⟩ := thenDo_eq_next.1 h
    unfold processChar at hv
    cases hf : (codecFeed s.cfg.bufCap s.c0.codec ch).2 with
    | none =>
      simp only [hf, Host.Outcome.next.injEq] at hv
      exact .inr (.inl ⟨ch, rfl, hf, by rw [← hv]⟩)
    | some buf =>
      simp only [hf] at hv
      exact .inr (.inr ⟨ch, buf, v, rfl, hf, hv, rfl⟩)

/-- What C1's step can be (44_stepping.md R270). -/
theorem c1Step_cases {s u : State} (h : c1Step s = .next u) :
    (s.c1.phase = .override ∧ overrideStep s = u) ∨ (s.c1.phase = .imaging ∧ imagingStep s = u) ∨
    (s.c1.phase = .poll ∧ pollStep s = .next u) ∨ (s.c1.phase = .motion ∧ motionStep s = u) ∨
    (s.c1.phase = .pulsing ∧ pulseStep s = u) ∨ (s.c1.phase = .finalReport ∧ finalReportStep s = u) := by
  unfold c1Step at h
  cases hp : s.c1.phase <;> simp_all

/-- What a Poll step can be: an empty `chan`, or the word's instruction (42_channel.md R214). -/
theorem pollStep_cases {s u : State} (h : pollStep s = .next u) :
    (s.chan = none ∧ u = { s with chan := none, c1 := { s.c1 with phase := .motion } }) ∨
    (∃ w, s.chan = some w ∧
      exec (decodeChannelWord w) { s with chan := none, c1 := { s.c1 with phase := .motion } } = .next u) := by
  unfold pollStep slotTake at h
  cases hc : s.chan with
  | none => simp_all
  | some w => exact .inr ⟨w, rfl, by simpa [hc] using h⟩

/-- What an Override step can start: nothing, or a motion to one of two targets (45_manual_override.md R300). -/
theorem overrideMotion_cases (inc dec : Bool) (s : State) :
    overrideMotion inc dec s = s ∨ overrideMotion inc dec s = startMotion (s.motor.currentPosition + s.cfg.overrideStep) s ∨
    (s.cfg.overrideStep.toNat ≤ s.motor.currentPosition.toNat ∧
      overrideMotion inc dec s = startMotion (s.motor.currentPosition - s.cfg.overrideStep) s) := by
  unfold overrideMotion
  split
  · exact .inr (.inl rfl)
  · split
    · split
      · exact .inr (.inr ⟨by assumption, rfl⟩)
      · exact .inl rfl
    · exact .inl rfl

/-- The end of a pulse: the target is reached, the batch is complete, or it goes on (44_stepping.md R277). -/
theorem endOfPulse_cases (s : State) :
    (s.motor.currentPosition = s.motor.targetPosition ∧ endOfPulse s = reachTarget s) ∨
    (s.motor.currentPosition ≠ s.motor.targetPosition ∧ s.c1.batchCount = s.cfg.batchSize ∧
      endOfPulse s =
        { reportIntermediate s with c1 := { (reportIntermediate s).c1 with phase := .override } }) ∨
    (s.motor.currentPosition ≠ s.motor.targetPosition ∧ s.c1.batchCount ≠ s.cfg.batchSize ∧
      endOfPulse s = { s with c1 := { s.c1 with phase := .pulsing } }) := by
  unfold endOfPulse
  split
  · exact .inl ⟨by assumption, rfl⟩
  · split
    · exact .inr (.inl ⟨by assumption, by assumption, rfl⟩)
    · exact .inr (.inr ⟨by assumption, by assumption, rfl⟩)

/-- The Fire step: nothing when no alarm is armed, else one armed alarm goes and its callback runs
(60_exceptions.md R406). -/
theorem fireStep_cases (s : State) :
    (s.alarms = [] ∧ fireStep s = s) ∨
    (∃ k a, s.alarms[k]? = some a ∧ fireStep s = runCallback a.kind { s with alarms := s.alarms.eraseIdx k }) := by
  unfold fireStep
  cases h : s.alarms[firingIndex s]? with
  | some a => exact .inr ⟨_, a, h, rfl⟩
  | none =>
    left
    refine ⟨?_, rfl⟩
    by_contra hne
    have hpos : 0 < s.alarms.length := List.length_pos_iff.2 hne
    have := List.getElem?_eq_none_iff.1 h
    exact absurd (Nat.mod_lt s.env.turn.alarm hpos) (by simpa [firingIndex] using this)

end Sys2Proof.Machine
end

