-- ==== Sys2Proof/Laws/PerInstr.lean ====
section
/-! SUPPORT. The per-instruction family EncodingMatchesRow: the words that the encoder writes for an instruction have the
fixed bits of its row of spec/opcode_table.json (30_encoding.md R97, R100). -/

namespace Sys2Proof.Laws

/-- The table word of an encoded instruction: VERB16 of a frame's first two kept characters, or the channel word. -/
def tableWord : Encoded → Nat
  | .word w => w.toNat
  | .frame (_ :: b0 :: b1 :: _) => b0.toNat * 256 + b1.toNat
  | .frame _ => 0

/-- The encoded instruction is a host frame, from its `:` to its `#` (30_encoding.md R103). -/
def isFrame : Encoded → Bool
  | .frame chars => chars.head? == some 0x3A && chars.getLast? == some 0x23
  | .word _ => false

/-- The instruction's encoding is a frame whose verb is `verb` (mask 0xFFFF of the VERB16 rows). -/
def verbRow (verb : Nat) (i : Instr) : Prop := isFrame (encode i) = true ∧ tableWord (encode i) = verb

/-- The instruction's encoding is a channel word whose bits 17:16 are `kind` (mask 0x00030000 of the CHAN32 rows) and
whose bits 31:18 are 0 (30_encoding.md R97). -/
def kindRow (kind : Nat) (i : Instr) : Prop := isFrame (encode i) = false ∧ tableWord (encode i) / 65536 = kind

/-- What each row of spec/opcode_table.json fixes in the encoding of its instruction. -/
def EncodingMatchesRow.Statement : Instr → Prop
  | .fq => verbRow 0x4651 (.fq)
  | .fg => verbRow 0x4647 (.fg)
  | .gh => verbRow 0x4748 (.gh)
  | .gc => verbRow 0x4743 (.gc)
  | .gi => verbRow 0x4749 (.gi)
  | .gn => verbRow 0x474E (.gn)
  | .gp => verbRow 0x4750 (.gp)
  | .gt => verbRow 0x4754 (.gt)
  | .gv => verbRow 0x4756 (.gv)
  | .gd => verbRow 0x4744 (.gd)
  | .sd v => verbRow 0x5344 (.sd v)
  | .sf => verbRow 0x5346 (.sf)
  | .sh => verbRow 0x5348 (.sh)
  | .sn v => verbRow 0x534E (.sn v)
  | .yb v => verbRow 0x5942 (.yb v)
  | .zb => verbRow 0x5A42 (.zb)
  | .zt => verbRow 0x5A54 (.zt)
  | .za => verbRow 0x5A41 (.za)
  | .sp v => verbRow 0x5350 (.sp v)
  | .yt v => verbRow 0x5954 (.yt v)
  | .db v => verbRow 0x4442 (.db v)
  | .unrecognized verb => isFrame (encode (.unrecognized verb)) = true
  | .target v => kindRow 0 (.target v)
  | .stop => kindRow 1 .stop
  | .go => kindRow 2 .go
  | .recalibrate => kindRow 3 .recalibrate

theorem EncodingMatchesRow.fq : EncodingMatchesRow.Statement .fq := ⟨rfl, rfl⟩
theorem EncodingMatchesRow.fg : EncodingMatchesRow.Statement .fg := ⟨rfl, rfl⟩
theorem EncodingMatchesRow.gh : EncodingMatchesRow.Statement .gh := ⟨rfl, rfl⟩
theorem EncodingMatchesRow.gc : EncodingMatchesRow.Statement .gc := ⟨rfl, rfl⟩
theorem EncodingMatchesRow.gi : EncodingMatchesRow.Statement .gi := ⟨rfl, rfl⟩
theorem EncodingMatchesRow.gn : EncodingMatchesRow.Statement .gn := ⟨rfl, rfl⟩
theorem EncodingMatchesRow.gp : EncodingMatchesRow.Statement .gp := ⟨rfl, rfl⟩
theorem EncodingMatchesRow.gt : EncodingMatchesRow.Statement .gt := ⟨rfl, rfl⟩
theorem EncodingMatchesRow.gv : EncodingMatchesRow.Statement .gv := ⟨rfl, rfl⟩
theorem EncodingMatchesRow.gd : EncodingMatchesRow.Statement .gd := ⟨rfl, rfl⟩
theorem EncodingMatchesRow.sd (v : Word16) : EncodingMatchesRow.Statement (.sd v) := ⟨rfl, rfl⟩
theorem EncodingMatchesRow.sf : EncodingMatchesRow.Statement .sf := ⟨rfl, rfl⟩
theorem EncodingMatchesRow.sh : EncodingMatchesRow.Statement .sh := ⟨rfl, rfl⟩
theorem EncodingMatchesRow.sn (v : Word16) : EncodingMatchesRow.Statement (.sn v) := ⟨rfl, rfl⟩
theorem EncodingMatchesRow.yb (v : Word16) : EncodingMatchesRow.Statement (.yb v) := ⟨rfl, rfl⟩
theorem EncodingMatchesRow.zb : EncodingMatchesRow.Statement .zb := ⟨rfl, rfl⟩
theorem EncodingMatchesRow.zt : EncodingMatchesRow.Statement .zt := ⟨rfl, rfl⟩
theorem EncodingMatchesRow.za : EncodingMatchesRow.Statement .za := ⟨rfl, rfl⟩
theorem EncodingMatchesRow.sp (v : Word16) : EncodingMatchesRow.Statement (.sp v) := ⟨rfl, rfl⟩
theorem EncodingMatchesRow.yt (v : Word16) : EncodingMatchesRow.Statement (.yt v) := ⟨rfl, rfl⟩
theorem EncodingMatchesRow.db (v : Word16) : EncodingMatchesRow.Statement (.db v) := ⟨rfl, rfl⟩

theorem EncodingMatchesRow.unrecognized (verb : Option Word16) : EncodingMatchesRow.Statement (.unrecognized verb) := by
  cases verb <;> rfl

theorem EncodingMatchesRow.target (v : Position) : EncodingMatchesRow.Statement (.target v) := by
  refine ⟨rfl, ?_⟩
  have := v.isLt
  simp only [tableWord, encode, encodeRequest, BitVec.toNat_ofNat]
  omega

theorem EncodingMatchesRow.stop : EncodingMatchesRow.Statement .stop := ⟨rfl, rfl⟩
theorem EncodingMatchesRow.go : EncodingMatchesRow.Statement .go := ⟨rfl, rfl⟩
theorem EncodingMatchesRow.recalibrate : EncodingMatchesRow.Statement .recalibrate := ⟨rfl, rfl⟩

end Sys2Proof.Laws
end

