-- ==== Sys2Proof/Laws/Runs.lean ====
section
/-! SUPPORT. Lemmas for statements about runs: every agent's step answers, what a run does in one step, when a rank that
keeps falling stays 0, and what C0's, C1's Imaging and IRQ's steps do when the inputs are inactive. -/

namespace Sys2Proof.Machine

/-! ## The state with its turn replaced -/

@[simp] theorem underTurn_toBlockState (t : Turn) (s : State) : (underTurn t s).toBlockState = s.toBlockState := rfl
@[simp] theorem underTurn_cfg (t : Turn) (s : State) : (underTurn t s).cfg = s.cfg := rfl
@[simp] theorem underTurn_turn (t : Turn) (s : State) : (underTurn t s).env.turn = t := rfl

/-! ## Steps answer -/

/-- C0's step always answers a next state (10_state.md R38). -/
theorem c0Step_answers_next (s : State) : ∃ u, c0Step s = .next u := by
  unfold c0Step getCharStep
  cases s.c0.phase <;> simp only <;> try exact ⟨_, rfl⟩
  cases nextChar s
  · exact ⟨_, rfl⟩
  · unfold processChar
    dsimp only
    split
    · exact ⟨_, rfl⟩
    · obtain ⟨t, ht⟩ := exec_answers_next (decodeBuffer _ _) _
      rw [ht]
      exact ⟨_, rfl⟩

/-- C1's step always answers a next state (10_state.md R28). -/
theorem c1Step_answers_next (s : State) : ∃ u, c1Step s = .next u := by
  unfold c1Step pollStep slotTake
  cases s.c1.phase <;> simp only <;> try exact ⟨_, rfl⟩
  cases s.chan
  · exact ⟨_, rfl⟩
  · exact exec_answers_next _ _

/-- With no Defect recorded a step is the agent's step and the next turn (00_scope.md R5; 60_exceptions.md R402). -/
theorem step_answers_next (s : State) (h : s.faults = []) :
    ∃ u, agentStep s = .next u ∧ step s = .next (advance u) := by
  have answers : ∃ u, agentStep s = .next u := by
    unfold agentStep
    cases s.env.turn.agent
    · exact c0Step_answers_next s
    · exact c1Step_answers_next s
    · exact ⟨_, rfl⟩
  obtain ⟨u, hu⟩ := answers
  exact ⟨u, hu, step_eq_next.2 ⟨h, u, hu, rfl⟩⟩

/-- One step of a run, where no Defect is recorded (00_scope.md R5). -/
theorem runUnder_succ (turns : Nat → Turn) (s : State) (n : Nat) (h : (runUnder turns s n).faults = []) :
    ∃ u, agentStep (underTurn (turns n) (runUnder turns s n)) = .next u ∧ runUnder turns s (n + 1) = advance u := by
  obtain ⟨u, hu, hs⟩ := step_answers_next (underTurn (turns n) (runUnder turns s n)) h
  exact ⟨u, hu, by simp only [runUnder, hs]⟩

/-- A rank that never grows and, while it is positive, falls again is 0 for ever from some point on. -/
theorem rank_vanishes (f : Nat → Nat) (start : Nat) (shrinks : ∀ m, start ≤ m → f (m + 1) ≤ f m)
    (falls : ∀ m, start ≤ m → 0 < f m → ∃ k, m ≤ k ∧ f (k + 1) < f m) : ∃ n, start ≤ n ∧ ∀ m, n ≤ m → f m = 0 := by
  have antitone : ∀ m k, start ≤ m → m ≤ k → f k ≤ f m := by
    intro m k hm hk
    induction k, hk using Nat.le_induction with
    | base => rfl
    | succ k hk ih => exact le_trans (shrinks k (by omega)) ih
  suffices ∀ v m, start ≤ m → f m ≤ v → ∃ n, start ≤ n ∧ f n = 0 by
    obtain ⟨n, h1, h2⟩ := this (f start) start le_rfl le_rfl
    exact ⟨n, h1, fun m hm => by have := antitone n m h1 hm; omega⟩
  intro v
  induction v with
  | zero => exact fun m hm h => ⟨m, hm, by omega⟩
  | succ v ih =>
    intro m hm h
    rcases Nat.eq_zero_or_pos (f m) with h0 | h0
    · exact ⟨m, hm, h0⟩
    · obtain ⟨k, hk, hlt⟩ := falls m hm h0
      exact ih (k + 1) (by omega) (by omega)

/-! ## Steps with inactive inputs -/

/-- What C0's step can do when the host delivers nothing (40_codec.md R130; 42_channel.md R211 to R213): with no request
pending it alternates between GetChar and PollFeedback, which empties `fb`; with one pending and in Sending it gets rid of
it or counts the attempt. The motor side and the codec stay. -/
theorem c0Step_quiet {s u : State} (quiet : s.env.turn.char = none) (inStep : s.c0.phase = .sending ↔ s.c0.pendingSend ≠ none)
    (h : c0Step s = .next u) :
    u.motor = s.motor ∧ u.c1 = s.c1 ∧ u.imaging = s.imaging ∧ u.alarms = s.alarms ∧ u.cfg = s.cfg ∧
    u.c0.codec = s.c0.codec ∧
    (s.c0.pendingSend = none → u.c0.pendingSend = none ∧ u.chan = s.chan ∧
      ((s.c0.phase = .getChar ∧ u.c0.phase = .pollFeedback ∧ u.fb = s.fb) ∨
        (s.c0.phase = .pollFeedback ∧ u.c0.phase = .getChar ∧ u.fb = none))) ∧
    (s.c0.pendingSend ≠ none → u.c0.pendingSend = none ∨
      (u.c0.pendingSend ≠ none ∧ u.c0.sendAttempts = s.c0.sendAttempts + 1)) := by
  rcases c0Step_cases h with ⟨hp, h⟩ | ⟨hp, rfl⟩ | ⟨hp, rfl⟩
  · have idle : s.c0.pendingSend = none := by
      by_contra hne
      have := inStep.2 hne
      rw [hp] at this
      cases this
    rcases getCharStep_cases h with ⟨_, rfl⟩ | ⟨ch, hc, _⟩ | ⟨ch, _, _, hc, _⟩
    · exact ⟨rfl, rfl, rfl, rfl, rfl, rfl, fun _ => ⟨idle, rfl, .inl ⟨hp, by simp [idle], rfl⟩⟩, fun hne => absurd idle hne⟩
    · rw [quiet] at hc; cases hc
    · rw [quiet] at hc; cases hc
  · have busy := inStep.1 hp
    obtain ⟨w, hw⟩ := Option.ne_none_iff_exists'.1 busy
    unfold sendingStep
    rw [hw]
    dsimp only
    cases s.chan
    · exact ⟨rfl, rfl, rfl, rfl, rfl, rfl, (fun hn => by cases hn), fun _ => .inl rfl⟩
    · simp only [slotTryPut_some, sendFailed]
      split
      · exact ⟨rfl, rfl, rfl, rfl, rfl, rfl, (fun hn => by cases hn), fun _ => .inl rfl⟩
      · exact ⟨rfl, rfl, rfl, rfl, rfl, rfl, (fun hn => by cases hn), fun _ => .inr ⟨busy, rfl⟩⟩
  · have idle : s.c0.pendingSend = none := by
      by_contra hne
      have := inStep.2 hne
      rw [hp] at this
      cases this
    unfold pollFeedbackStep slotTake
    cases s.fb <;>
      exact ⟨rfl, rfl, rfl, rfl, rfl, rfl, fun _ => ⟨idle, rfl, .inr ⟨hp, rfl, rfl⟩⟩, fun hne => absurd idle hne⟩

/-- What IRQ's step can do (60_exceptions.md R406): it never arms an alarm, and the alarm it fires is gone; an Exposure or
a Pause requires a click. -/
theorem fireStep_frame (s : State) :
    (fireStep s).motor = s.motor ∧ (fireStep s).c1 = s.c1 ∧ (fireStep s).chan = s.chan ∧ (fireStep s).fb = s.fb ∧
    (fireStep s).c0 = s.c0 ∧ (fireStep s).cfg = s.cfg ∧ (fireStep s).imaging.started = s.imaging.started ∧
    (fireStep s).imaging.shutterOpen = s.imaging.shutterOpen ∧
    (s.imaging.clickRequired = true → (fireStep s).imaging.clickRequired = true) ∧
    (fireStep s).alarms.length ≤ s.alarms.length ∧
    (∀ a, s.alarms[firingIndex s]? = some a → (fireStep s).alarms.length < s.alarms.length ∧
      (a.kind ≠ .cooldown → (fireStep s).imaging.clickRequired = true)) := by
  unfold fireStep
  cases h : s.alarms[firingIndex s]? with
  | none => exact ⟨rfl, rfl, rfl, rfl, rfl, rfl, rfl, rfl, id, le_rfl, nofun⟩
  | some a =>
    obtain ⟨hk, _⟩ := List.getElem?_eq_some_iff.1 h
    have shorter : (s.alarms.eraseIdx (firingIndex s)).length < s.alarms.length := by
      rw [List.length_eraseIdx_of_lt hk]
      omega
    simp only [runCallback]
    cases ha : a.kind
    · exact ⟨rfl, rfl, rfl, rfl, rfl, rfl, rfl, rfl, id, le_of_lt shorter,
        fun b hb => by cases hb; exact ⟨shorter, fun hne => absurd ha hne⟩⟩
    all_goals
      exact ⟨rfl, rfl, rfl, rfl, rfl, rfl, rfl, rfl, fun _ => rfl, le_of_lt shorter,
        fun b hb => by cases hb; exact ⟨shorter, fun _ => rfl⟩⟩

/-- What the Imaging step does when the switch is inactive (46_intervalometer.md R320 to R322): without a required click
nothing but C1's phase; with one, the opening click opens the session's shutter and the closing click ends the session. -/
theorem imagingStep_quiet {s : State} (quiet : s.env.turn.imgSwitch = false) (irLow : s.pins.ir = false)
    (inSession : s.imaging.clickRequired = true → s.imaging.started = true ∧ s.cfg.hasIntervalometer = true) :
    (imagingStep s).motor = s.motor ∧ (imagingStep s).c1 = { s.c1 with phase := .poll } ∧
    (imagingStep s).chan = s.chan ∧ (imagingStep s).fb = s.fb ∧ (imagingStep s).c0 = s.c0 ∧ (imagingStep s).cfg = s.cfg ∧
    (s.imaging.clickRequired = false → (imagingStep s).imaging = s.imaging ∧ (imagingStep s).alarms = s.alarms) ∧
    (s.imaging.clickRequired = true → s.imaging.shutterOpen = true → (imagingStep s).imaging.started = false) ∧
    (s.imaging.clickRequired = true → s.imaging.shutterOpen = false →
      (imagingStep s).imaging = { started := true, shutterOpen := true, clickRequired := false }) := by
  have stays : armSession (getPin .imgSwitch s) s.imaging = s.imaging := by simp [armSession, getPin, quiet]
  unfold imagingStep
  split
  · dsimp only
    rw [stays]
    cases hc : s.imaging.clickRequired
    · simp
    · simp only [if_true]
      rw [show ({ s with imaging := s.imaging } : State) = s from rfl, serviceClick_spec _ s irLow, (inSession hc).1,
        show getPin .imgSwitch s = false from quiet]
      exact ⟨rfl, rfl, rfl, rfl, rfl, rfl, by simp, fun _ h => by simp [h], fun _ h => by simp [h]⟩
  · rename_i absent
    exact ⟨rfl, rfl, rfl, rfl, rfl, rfl, fun _ => ⟨rfl, rfl⟩, fun h => absurd (inSession h).2 absent,
      fun h => absurd (inSession h).2 absent⟩

end Sys2Proof.Machine
end

