-- ==== Sys2Proof/Tests/Slice0.lean ====
section
/-! SUPPORT. Small tests: what WellFormed refuses, decoding of words and frames written out from 30_encoding.md, single
steps from the vectors of 95_test_vectors.md, and for every obligation with hypotheses a concrete state and operands that
meet them. -/

namespace Sys2Proof.Tests

open Sys2Proof Sys2Proof.Machine

/-! ## Helpers -/

/-- The document's parameter values, the OPEN ones chosen as 95_test_vectors.md section 2.5 takes them or freely. -/
def testCfg : Config where
  posBits := 16
  bufCap := 8
  valueVerbs := statedValueVerbs
  payloadDigits := 4
  rampMaxMs := 40
  rampFloorMs := 2
  rampStepMs := 2
  batchSize := 20
  cooldownMs := 2000
  recalPosition := 1000
  recalTarget := 0
  overrideStep := 5
  settleMs := 10
  c0SleepMs := 10
  chanPollTimeoutUs := 10
  nextCharTimeoutUs := 0
  sendRetryLimit := 3
  sendBackoffUs := 1
  exposureMs := 900
  pauseMs := 300
  irBursts := 2
  irPulses := 16
  irPulseUs := 15
  irGapUs := 7300
  hasIntervalometer := true
  fwVersionText := [0x31, 0x30]
  adcBits := 12
  tempAdcChannel := 4
  temp := statedTemp
  stopLineAtReset := false
  dirPinAtReset := false
  legacyDelayReset := 0x1F

/-- A turn of an agent that draws nothing and inactive inputs. -/
def quiet (a : Agent) : Turn :=
  { agent := a, char := none, btnInc := false, btnDec := false, imgSwitch := false, adc := 0, alarm := 0 }

/-- The same turn now and for the next eight steps. -/
def always (t : Turn) : Env := { turn := t, script := List.replicate 8 t, drawn := 0 }

/-- The reset state of the test configuration under one repeated turn. -/
def start (t : Turn) : State := State.resetOf testCfg (always t)

/-- C1 at a phase, the engine Idle at a position. -/
def idleAt (p : Position) (phase : C1Phase) (t : Turn) : State :=
  { start t with
    motor := { mode := .idle, currentPosition := p, targetPosition := p, stepIntervalMs := 2, direction := .forward,
               stepsRemaining := 0 }
    c1 := { phase := phase, batchCount := 0, pendingFinal := encodeReport p p } }

/-- C1 at a phase of a motion, with `batch` pulses of the batch done. -/
def movingAt (cur tgt : Position) (d : Direction) (interval : Word32) (phase : C1Phase) (batch : Nat) (t : Turn) : State :=
  { start t with
    motor := { mode := .stepping, currentPosition := cur, targetPosition := tgt, stepIntervalMs := interval, direction := d,
               stepsRemaining := BitVec.ofNat 32 (distance tgt cur) }
    c1 := { phase := phase, batchCount := batch, pendingFinal := 0 }
    pins := { step := false, dir := isForward d, stop := false, ir := false } }

/-- C0 with its copies of target and position. -/
def hostAt (target position : Position) (t : Turn) : State :=
  { start t with c0 := { (start t).c0 with hostTarget := target, hostPosition := position } }

/-- C0 in Sending with a word to put and a number of failed attempts. -/
def sendingAt (w : Word32) (attempts : Nat) (chan : Option Word32) : State :=
  { start (quiet .c0) with
    c0 := { (start (quiet .c0)).c0 with pendingSend := some w, sendAttempts := attempts, phase := .sending }
    chan := chan }

/-- The intervalometer in a session. -/
def imagingAt (started shutterOpen click sw : Bool) (alarms : List Alarm) : State :=
  { idleAt 100 .imaging { quiet .c1 with imgSwitch := sw } with
    imaging := { started := started, shutterOpen := shutterOpen, clickRequired := click }, alarms := alarms }

/-- A view of the next state, if the outcome is one. -/
def view {α : Type} (f : State → α) : Host.Outcome State Fault Refusal → Option α
  | .next s => some (f s)
  | .fault _ => none
  | .refused _ => none

/-! ## WellFormed refuses what no frame spells (30_encoding.md R90, R100) -/

theorem test_wf_refuses_unkept_first_character : (Instr.unrecognized (some 0x3A58)).wellFormed = false := by decide
theorem test_wf_refuses_unkept_second_character : (Instr.unrecognized (some 0x5867)).wellFormed = false := by decide
theorem test_wf_refuses_a_verb_with_a_row : (Instr.unrecognized (some 0x534E)).wellFormed = false := by decide

/-! ## Decoding, from words written out (30_encoding.md R97, R98, R100) -/

theorem test_decode_motion_verbs :
    decodeTableWord 16 0b0100011001010001 = some .fq ∧ decodeTableWord 16 0b0100011001000111 = some .fg ∧
    decodeTableWord 16 0b0101001101001000 = some .sh ∧ decodeTableWord 16 0b0101001101001110 = some (.sn 0) := by decide

theorem test_decode_query_verbs :
    decodeTableWord 16 0b0100011101001000 = some .gh ∧ decodeTableWord 16 0b0100011101000011 = some .gc ∧
    decodeTableWord 16 0b0100011101001001 = some .gi ∧ decodeTableWord 16 0b0100011101001110 = some .gn ∧
    decodeTableWord 16 0b0100011101010000 = some .gp ∧ decodeTableWord 16 0b0100011101010100 = some .gt ∧
    decodeTableWord 16 0b0100011101010110 = some .gv ∧ decodeTableWord 16 0b0100011101000100 = some .gd := by decide

theorem test_decode_setting_verbs :
    decodeTableWord 16 0b0101001101000100 = some (.sd 0) ∧ decodeTableWord 16 0b0101001101000110 = some .sf ∧
    decodeTableWord 16 0b0101100101000010 = some (.yb 0) ∧ decodeTableWord 16 0b0101101001000010 = some .zb ∧
    decodeTableWord 16 0b0101101001010100 = some .zt ∧ decodeTableWord 16 0b0101101001000001 = some .za := by decide

theorem test_decode_verbs_without_a_handler :
    decodeTableWord 16 0b0101001101010000 = some (.sp 0) ∧ decodeTableWord 16 0b0101100101010100 = some (.yt 0) ∧
    decodeTableWord 16 0b0100010001000010 = some (.db 0) ∧
    decodeTableWord 16 0b0101100001011000 = some (.unrecognized (some 0x5858)) := by decide

/-- The channel table of 95_test_vectors.md section 2.3, with its reserved bits set. -/
theorem test_decode_channel_words :
    decodeTableWord 32 0b00000000000000000000000100000000 = some (.target 256) ∧
    decodeTableWord 32 0b00000000000000010000000000000000 = some .stop ∧
    decodeTableWord 32 0b00000000000000100000000000000000 = some .go ∧
    decodeTableWord 32 0b00000000000000110000000000000000 = some .recalibrate ∧
    decodeChannelWord 0xFFFC0000 = .target 0 ∧ decodeChannelWord 0x00011234 = .stop ∧
    decodeChannelWord 0x00060000 = .go ∧ decodeChannelWord 0x0003FFFF = .recalibrate := by decide

/-- 95_test_vectors.md K12, K13, K14, K15. -/
theorem test_decode_sn_frames :
    decode testCfg (.frame [0x3A, 0x53, 0x4E, 0x30, 0x31, 0x30, 0x30, 0x23]) = .ok (.sn 256) ∧
    decode testCfg (.frame [0x3A, 0x53, 0x4E, 0x46, 0x46, 0x46, 0x46, 0x23]) = .ok (.sn 65535) ∧
    decode testCfg (.frame [0x3A, 0x53, 0x4E, 0x31, 0x32, 0x33, 0x34, 0x35, 0x36, 0x37, 0x38, 0x23]) = .ok (.sn 0x1234) ∧
    decode testCfg (.frame [0x3A, 0x53, 0x4E, 0x47, 0x31, 0x23]) = .ok (.sn 0) := ⟨rfl, rfl, rfl, rfl⟩

/-- 95_test_vectors.md K16, K17, K24. -/
theorem test_decode_sd_and_sp_frames :
    decode testCfg (.frame [0x3A, 0x53, 0x44, 0x31, 0x32, 0x47, 0x34, 0x23]) = .ok (.sd 0) ∧
    decode testCfg (.frame [0x3A, 0x53, 0x44, 0x31, 0x32, 0x33, 0x23]) = .ok (.sd 0x123) ∧
    decode testCfg (.frame [0x3A, 0x53, 0x50, 0x31, 0x32, 0x33, 0x34, 0x23]) = .ok (.sp 0x1234) := ⟨rfl, rfl, rfl⟩

/-- 95_test_vectors.md K6, K8, K18, K22, K23, K25. -/
theorem test_decode_odd_frames :
    decode testCfg (.frame [0x3A, 0x47, 0x50, 0x3A, 0x47, 0x4E, 0x23]) = .ok .gn ∧
    decode testCfg (.frame [0x3A, 0x23]) = .ok (.unrecognized none) ∧
    decode testCfg (.frame [0x3A, 0x47, 0x50, 0x46, 0x46, 0x46, 0x46, 0x23]) = .ok .gp ∧
    decode testCfg (.frame [0x3A, 0x47, 0x50, 0x23, 0x23]) = .ok .gp ∧
    decode testCfg (.frame [0x3A, 0x53, 0x44, 0x37, 0x3A, 0x47, 0x44, 0x23]) = .ok .gd ∧
    decode testCfg (.frame [0x3A, 0x53, 0x4E, 0x30, 0x30, 0x36, 0x34]) = .error .noFrame := ⟨rfl, rfl, rfl, rfl, rfl, rfl⟩

/-! ## Host commands (95_test_vectors.md section 2.4) -/

/-- H2 and H3. -/
theorem test_position_answers :
    view (fun t => t.hostOut) (exec .gp (hostAt 100 0x0064 (quiet .c0))) = some [0x30, 0x30, 0x36, 0x34, 0x23] ∧
    view (fun t => t.hostOut) (exec .gn (hostAt 256 40 (quiet .c0))) = some [0x30, 0x31, 0x30, 0x30, 0x23] := by decide

/-- H4 and H5. -/
theorem test_moving_answers :
    view (fun t => t.hostOut) (exec .gi (hostAt 100 40 (quiet .c0))) = some [0x30, 0x31, 0x23] ∧
    view (fun t => t.hostOut) (exec .gi (hostAt 40 40 (quiet .c0))) = some [0x30, 0x30, 0x23] := by decide

/-- H6, H7, H8 and H9. -/
theorem test_fixed_and_delay_answers :
    view (fun t => t.hostOut) (exec .gh (start (quiet .c0))) = some [0x30, 0x30, 0x23] ∧
    view (fun t => t.hostOut) (exec .gc (start (quiet .c0))) = some [0x30, 0x30, 0x23] ∧
    view (fun t => t.hostOut) (exec .gv (start (quiet .c0))) = some [0x31, 0x30, 0x23] ∧
    view (fun t => t.hostOut) (exec .gd (start (quiet .c0))) = some [0x31, 0x46, 0x23] := by decide

/-- The GT table: samples 0, 933, 934 and 4095. -/
theorem test_temperature_answers :
    view (fun t => t.hostOut) (exec .gt (start { quiet .c0 with adc := 0 })) = some [0x30, 0x33, 0x36, 0x41, 0x23] ∧
    view (fun t => t.hostOut) (exec .gt (start { quiet .c0 with adc := 933 })) = some [0x30, 0x30, 0x30, 0x30, 0x23] ∧
    view (fun t => t.hostOut) (exec .gt (start { quiet .c0 with adc := 934 })) = some [0x46, 0x46, 0x46, 0x45, 0x23] ∧
    view (fun t => t.hostOut) (exec .gt (start { quiet .c0 with adc := 4095 })) = some [0x46, 0x34, 0x37, 0x30, 0x23] := by decide

/-- H14, H16, H17, H18. -/
theorem test_motion_verbs_send :
    view (fun t => (t.c0.hostTarget, t.c0.pendingSend)) (exec (.sn 256) (start (quiet .c0))) = some (256, some 0x00000100) ∧
    view (fun t => t.c0.pendingSend) (exec .fq (start (quiet .c0))) = some (some 0x00010000) ∧
    view (fun t => t.c0.pendingSend) (exec .fg (start (quiet .c0))) = some (some 0x00020000) ∧
    view (fun t => (t.c0.hostTarget, t.c0.pendingSend)) (exec .sh (hostAt 7 7 (quiet .c0))) = some (7, some 0x00030000) := by
  decide

/-- K17: SD stores the low 8 bits. -/
theorem test_sd_stores_low_byte :
    view (fun t => t.c0.legacyDelay) (exec (.sd 0x123) (start (quiet .c0))) = some 0x23 := by decide

/-- A `#` at GetChar runs the kept verb: GV, then C0 polls the feedback. -/
theorem test_step_runs_a_frame :
    view (fun t => (t.hostOut, t.c0.phase, t.c0.codec.inFrame)) (step (placeFrame [0x47, 0x56] (start (quiet .c0)))) =
      some ([0x31, 0x30, 0x23], .pollFeedback, false) := by decide

/-! ## Channel operations (section 2.5) -/

/-- CH1, CH2, CH3. -/
theorem test_sending_steps :
    view (fun t => (t.chan, t.c0.pendingSend, t.c0.sendAttempts, t.c0.phase)) (step (sendingAt 0x100 0 none)) =
      some (some 0x100, none, 0, .pollFeedback) ∧
    view (fun t => (t.chan, t.c0.sendAttempts, t.c0.phase)) (step (sendingAt 0x100 0 (some 0x64))) =
      some (some 0x64, 1, .sending) ∧
    view (fun t => (t.dropLog, t.c0.pendingSend, t.c0.sendAttempts, t.c0.phase)) (step (sendingAt 0x100 2 (some 0x64))) =
      some ([.droppedRequest 0x100], none, 0, .pollFeedback) := by decide

/-- CH5. -/
theorem test_feedback_poll :
    view (fun t => (t.c0.hostTarget, t.c0.hostPosition, t.fb, t.c0.phase))
      (c0Step { start (quiet .c0) with fb := some 0x00640028, c0 := { (start (quiet .c0)).c0 with phase := .pollFeedback } }) =
      some (100, 40, none, .getChar) := by decide

/-! ## Motion requests (section 2.6) -/

/-- M2 and M6. -/
theorem test_target_requests :
    view (fun t => (t.motor.mode, t.motor.direction, t.motor.stepsRemaining, t.motor.stepIntervalMs, t.pins.dir))
      (step { idleAt 100 .poll (quiet .c1) with chan := some 10 }) = some (.stepping, .reverse, 90, 40, false) ∧
    view (fun t => (t.motor.direction, t.motor.stepsRemaining, t.motor.stepIntervalMs, t.c1.phase))
      (step { movingAt 40 100 .forward 2 .poll 20 (quiet .c1) with chan := some 10 }) = some (.reverse, 30, 40, .motion) := by
  decide

/-- M4 and M5. -/
theorem test_go_requests :
    view (fun t => (t.motor.mode, t.motor.stepsRemaining, t.pinTrace))
      (step { idleAt 100 .poll (quiet .c1) with chan := some 0x20000 }) =
      some (.stepping, 0, [.pin .dir true, .pin .stop false]) ∧
    view (fun t => (t.motor.stepsRemaining, t.motor.stepIntervalMs, t.pinTrace))
      (step { movingAt 40 100 .forward 2 .poll 20 (quiet .c1) with chan := some 0x20000 }) = some (60, 2, []) := by decide

/-- M7 and M10. -/
theorem test_stop_and_recalibrate_requests :
    view (fun t => (t.motor.mode, t.motor.targetPosition, t.pinTrace, t.c1.phase, t.c1.pendingFinal))
      (step { movingAt 40 100 .forward 2 .poll 20 (quiet .c1) with chan := some 0x10000 }) =
      some (.idle, 40, [.pin .stop true], .finalReport, 0x00280028) ∧
    view (fun t => (t.motor.currentPosition, t.motor.targetPosition, t.motor.direction, t.motor.stepsRemaining))
      (step { movingAt 40 100 .forward 2 .poll 20 (quiet .c1) with chan := some 0x30000 }) =
      some (1000, 0, .reverse, 1000) := by decide

/-! ## Stepping (section 2.7) -/

/-- ST4: the first pulse. -/
theorem test_first_pulse :
    view (fun t => (t.motor.currentPosition, t.motor.stepsRemaining, t.c1.batchCount, t.motor.stepIntervalMs, t.pinTrace))
      (step (movingAt 0 100 .forward 40 .pulsing 0 (quiet .c1))) =
      some (1, 99, 1, 38, [.pin .step true, .hold 40000, .pin .step false, .hold 40000]) := by decide

/-- ST5 and CH9: the end of a batch. -/
theorem test_batch_end :
    view (fun t => (t.fb, t.c1.phase, t.motor.stepIntervalMs)) (step (movingAt 19 100 .forward 2 .pulsing 19 (quiet .c1))) =
      some (some 0x00640014, .override, 2) ∧
    view (fun t => (t.fb, t.dropLog))
      (step { movingAt 39 100 .forward 2 .pulsing 19 (quiet .c1) with fb := some 0x00640014 }) =
      some (some 0x00640014, [.droppedReport 0x00640028]) := by decide

/-- ST6 and ST7: reaching the target. -/
theorem test_target_reached :
    view (fun t => (t.motor.mode, t.alarms, t.c1.pendingFinal, t.c1.phase, t.fb))
      (step (movingAt 99 100 .forward 2 .pulsing 19 (quiet .c1))) =
      some (.idle, [{ kind := .cooldown, delayMs := 2000 }], 0x00640064, .finalReport, none) ∧
    view (fun t => (t.motor.currentPosition, t.motor.mode)) (step (movingAt 1 0 .reverse 2 .pulsing 3 (quiet .c1))) =
      some (0, .idle) := by decide

/-- ST8: a state no run reaches raises the Defect, and the step after it answers the fault. -/
theorem test_defect :
    view (fun t => (t.faults, t.motor.currentPosition)) (step (movingAt 0 0xFFFB .reverse 2 .pulsing 0 (quiet .c1))) =
      some ([.directionInconsistent], 0) := by decide

/-! ## Override (section 2.8) -/

/-- O1 and O3. -/
theorem test_override_increase :
    view (fun t => (t.motor.targetPosition, t.motor.direction, t.pinTrace, t.c1.phase))
      (step (idleAt 0 .override { quiet .c1 with btnInc := true })) =
      some (5, .forward, [.pin .dir true, .pin .stop false, .hold 10000], .imaging) ∧
    view (fun t => (t.motor.targetPosition, t.motor.direction, t.motor.stepsRemaining))
      (step (idleAt 0xFFFE .override { quiet .c1 with btnInc := true })) = some (3, .reverse, 65531) := by decide

/-- O2 and O4. -/
theorem test_override_decrease :
    view (fun t => (t.motor.targetPosition, t.motor.mode)) (step (idleAt 5 .override { quiet .c1 with btnDec := true })) =
      some (0, .stepping) ∧
    view (fun t => (t.motor.targetPosition, t.motor.mode, t.pinTrace))
      (step (idleAt 4 .override { quiet .c1 with btnDec := true })) = some (4, .idle, [.hold 10000]) := by decide

/-! ## Intervalometer and alarms (sections 2.9, 2.10) -/

/-- I2 and I5. -/
theorem test_imaging_steps :
    view (fun t => (t.imaging, t.alarms)) (step (imagingAt false false false true [])) =
      some ({ started := true, shutterOpen := true, clickRequired := false }, [{ kind := .exposure, delayMs := 900 }]) ∧
    view (fun t => (t.imaging, t.alarms)) (step (imagingAt true true true false [])) =
      some ({ started := false, shutterOpen := false, clickRequired := false }, []) := by decide

/-- The click waveform with one pulse a burst: the gap only between the bursts. -/
theorem test_click :
    (fireClick { start (quiet .c1) with cfg := { testCfg with irPulses := 1 } }).pinTrace =
      [.pin .ir true, .hold 15, .pin .ir false, .hold 15, .hold 7300, .pin .ir true, .hold 15, .pin .ir false, .hold 15] := by
  decide

/-- I4 and I7. -/
theorem test_imaging_session :
    view (fun t => (t.imaging.shutterOpen, t.alarms)) (step (imagingAt true true true true [])) =
      some (false, [{ kind := .pause, delayMs := 300 }]) ∧
    view (fun t => (t.imaging.shutterOpen, t.alarms)) (step (imagingAt true false true false [])) =
      some (true, [{ kind := .exposure, delayMs := 900 }]) := by decide

/-- The armed alarms of vector A3. -/
def twoAlarms : List Alarm := [{ kind := .cooldown, delayMs := 2000 }, { kind := .exposure, delayMs := 900 }]

/-- A3 and A1. -/
theorem test_fire_steps :
    view (fun t => (t.alarms, t.imaging.clickRequired))
      (step { start { quiet .irq with alarm := 1 } with alarms := twoAlarms }) =
      some ([{ kind := .cooldown, delayMs := 2000 }], true) ∧
    view (fun t => (t.alarms, t.pins.stop, t.pinTrace))
      (step { start (quiet .irq) with alarms := [{ kind := .cooldown, delayMs := 2000 }] }) =
      some ([], true, [.pin .stop true]) := by decide

/-! ## Placing an instruction (log 20) -/

theorem test_placed_words_run :
    view (fun t => t.c0.pendingSend) (step ((start (quiet .irq)).withFetchWord 16 0x4651)) = some (some 0x00010000) ∧
    view (fun t => t.motor.targetPosition) (step ((start (quiet .irq)).withFetchWord 32 0x00000100)) = some 256 := by decide

/-! ## The invariant of concrete states -/

/-- Everything Inv asks of a state with nothing pending, but that its channel word is canonical, as one decidable
conjunction. -/
def invCheck (s : State) : Bool :=
  decide (s.cfg.wellFormed = true ∧ s.cfg.meetsTable = true ∧ s.faults = [] ∧ s.c0.pendingSend = none) &&
  decide (s.motor.mode ≠ .stopped ∧
    (s.motor.mode = .idle → s.motor.currentPosition = s.motor.targetPosition ∧ s.motor.stepsRemaining = 0) ∧
    (s.motor.mode = .stepping →
      s.motor.stepsRemaining.toNat = distance s.motor.targetPosition s.motor.currentPosition) ∧
    (s.motor.mode = .stepping → s.motor.currentPosition ≠ s.motor.targetPosition →
      (s.motor.direction = .forward ↔ s.motor.currentPosition.toNat < s.motor.targetPosition.toNat)) ∧
    (s.motor.mode = .stepping → s.motor.currentPosition = s.motor.targetPosition →
      s.c1.phase = .imaging ∨ s.c1.phase = .poll ∨ s.c1.phase = .motion)) &&
  decide ((s.cfg.rampFloorMs.toNat ≤ s.motor.stepIntervalMs.toNat ∧
    s.motor.stepIntervalMs.toNat ≤ s.cfg.rampMaxMs.toNat ∧
    (s.motor.stepIntervalMs.toNat - s.cfg.rampFloorMs.toNat) % s.cfg.rampStepMs.toNat = 0) ∧
    s.c1.batchCount ≤ s.cfg.batchSize ∧
    (s.c1.phase = .pulsing → s.motor.mode = .stepping ∧ s.c1.batchCount < s.cfg.batchSize) ∧
    (s.c1.phase = .finalReport → s.motor.mode = .idle ∧ s.c1.pendingFinal = fbWord s)) &&
  decide ((s.cfg.hasIntervalometer = false → s.imaging.started = false) ∧
    (s.imaging.started = false →
      s.imaging.shutterOpen = false ∧ s.imaging.clickRequired = false ∧ imagingAlarms s.alarms = 0) ∧
    (s.imaging.started = true →
      (s.imaging.clickRequired = true ∧ imagingAlarms s.alarms = 0) ∨
      (s.imaging.clickRequired = false ∧ imagingAlarms s.alarms = 1)) ∧
    alarmsSorted s.alarms = true ∧ ∀ a ∈ s.alarms, a.delayMs = armedDelay s.cfg a.kind) &&
  decide (s.c0.codec.rxBuf.length ≤ s.cfg.bufCap ∧ (∀ c ∈ s.c0.codec.rxBuf, isDataChar c = true) ∧
    (s.c0.codec.inFrame = false → s.c0.codec.rxBuf = []) ∧ (s.c0.phase = .sending ↔ s.c0.pendingSend ≠ none) ∧
    s.c0.sendAttempts < s.cfg.sendRetryLimit ∧ (s.c0.pendingSend = none → s.c0.sendAttempts = 0)) &&
  decide (s.pins.step = false ∧ s.pins.ir = false ∧
    (s.motor.mode = .stepping → s.pins.dir = isForward s.motor.direction) ∧
    (s.motor.mode = .idle → s.pins.stop = true ∨ (∃ a ∈ s.alarms, a.kind = .cooldown) ∨
      ∀ e ∈ s.pinTrace, e ≠ .pin .dir true ∧ e ≠ .pin .dir false))

theorem inv_of_check {s : State} (h : invCheck s = true) (hc : ∀ w, s.chan = some w → canonicalRequest w) : Inv s := by
  simp only [invCheck, Bool.and_eq_true, decide_eq_true_eq] at h
  obtain ⟨⟨⟨⟨⟨⟨c, k, f, p⟩, m1, m2, m3, m4, m5⟩, m6, m7, m8, m9⟩, i1, i2, i3, a1, a2⟩, h1, h2, h3, h4, h5, h6⟩,
    p1, p2, p3, p4⟩ := h
  refine ⟨c, k, f, ⟨m1, m2, m3, m4, m5, m6, m7, m8, m9⟩, ⟨i1, i2, i3⟩, ⟨a1, a2⟩,
    ⟨h1, h2, h3, h4, h5, h6, (fun w hw => by rw [p] at hw; cases hw), hc⟩, ⟨p1, p2, p3, fun hm ⟨l, hl⟩ => ?_⟩⟩
  rcases p4 hm with h | h | h
  · exact .inl h
  · exact .inr h
  · cases l
    · exact absurd rfl (h _ hl).2
    · exact absurd rfl (h _ hl).1

/-! ## Witnesses: for each obligation with hypotheses, a state and operands that meet them -/

theorem witness_DecodeOfEncode :
    6 ≤ testCfg.bufCap ∧ 4 ≤ testCfg.payloadDigits ∧ (∀ verb ∈ statedValueVerbs, verb ∈ testCfg.valueVerbs) ∧
    (Instr.sn 0xFFFF).wellFormed = true ∧ (Instr.target 0xFFFF).wellFormed = true ∧
    (Instr.unrecognized (some 0x3030)).wellFormed = true :=
  ⟨by decide, by decide, fun _ h => h, by decide, by decide, by decide⟩

theorem witness_ChannelWordDecodesByKind :
    (0xFFFCFFFF : Word32).toNat / 65536 % 4 = 0 ∧ (0x00010000 : Word32).toNat / 65536 % 4 = 1 ∧
    (0x0006FFFF : Word32).toNat / 65536 % 4 = 2 ∧ (0xFFFFFFFF : Word32).toNat / 65536 % 4 = 3 := by decide

theorem witness_VerbsDecodeByTwoCharacters :
    verb16 0x53 0x44 ∈ testCfg.valueVerbs ∧ verb16 0x53 0x44 ∉ ({ testCfg with valueVerbs := [] } : Config).valueVerbs ∧
    verb16 0x58 0x58 ∉ rowVerbs ∧ ([] : List Byte).length < 2 ∧ ([0x47] : List Byte).length < 2 := by decide

theorem witness_HexValueReadsDigits :
    (∃ c ∈ ([0x31, 0x47] : List Byte), hexDigitValue c = none) ∧
    (∀ e ∈ ([0x31] : List Byte), hexDigitValue e ≠ none) ∧ hexDigitValue 0x46 = some 15 ∧
    ([0x46, 0x46, 0x46, 0x46] : List Byte).length ≤ 4 := by decide

theorem witness_ParseBuildsCommand :
    ([0x53] : List Byte).length < 2 ∧ verb16 0x53 0x4E ∈ testCfg.valueVerbs ∧
    testCfg.payloadDigits ≤ 8 ∧ verb16 0x47 0x50 ∉ testCfg.valueVerbs := by decide

/-- A full buffer of a frame. -/
theorem witness_BufferNeverOverflows :
    ([0x53, 0x4E, 0x31, 0x32, 0x33, 0x34, 0x35, 0x36] : List Byte).length ≤ 8 ∧
    ∀ b ∈ ([0x53, 0x4E, 0x31, 0x32, 0x33, 0x34, 0x35, 0x36] : List Byte), isDataChar b = true := by decide

theorem witness_FrameKeepsFirstDataCharacters :
    ∀ ch ∈ ([0x53, 0x20, 0x4E, 0x67] : List Byte), ch ≠ 0x3A ∧ ch ≠ 0x23 := by decide

theorem witness_IgnoredCharactersChangeNothing :
    charClass 0x30 = .data ∧ charClass 0x39 = .data ∧ charClass 0x41 = .data ∧ charClass 0x5A = .data ∧
    charClass 0x2F = .other ∧ charClass 0x3B = .other ∧ charClass 0x40 = .other ∧ charClass 0x5B = .other ∧
    charClass 0x3A = .frameStart ∧ charClass 0x23 = .frameEnd ∧ (start (quiet .c0)).c0.codec.inFrame = false ∧ charClass 0x61 = .other := by decide

/-- C0 inside the frame `:GV`, about to read `#`. -/
theorem witness_FrameCharactersDriveTheCodec :
    (placeFrame [0x47, 0x56] (start (quiet .c0))).c0.codec.inFrame = true ∧ charClass 0x30 = .data ∧
    (start (quiet .c0)).c0.codec.inFrame = false := by decide

theorem witness_StepRunsTheFramesVerb :
    (placeFrame [0x47, 0x56] (start (quiet .c0))).faults = [] ∧
    (placeFrame [0x47, 0x56] (start (quiet .c0))).env.turn.agent = .c0 ∧
    (placeFrame [0x47, 0x56] (start (quiet .c0))).c0.phase = .getChar ∧
    (placeFrame [0x47, 0x56] (start (quiet .c0))).c0.codec.inFrame = true ∧
    (placeFrame [0x47, 0x56] (start (quiet .c0))).env.turn.char = some 0x23 ∧
    decodeBuffer testCfg (placeFrame [0x47, 0x56] (start (quiet .c0))).c0.codec.rxBuf = .gv ∧
    (start (quiet .c0)).env.turn.char = none ∧ (start (quiet .c0)).c0.codec.inFrame = false ∧
    (start { quiet .c0 with char := some 0x3A }).env.turn.char = some 0x3A ∧ charClass 0x61 = .other ∧
    charClass 0x30 = .data := by decide

/-- A character outside a frame and one inside, at GetChar. -/
theorem test_getchar_steps :
    view (fun t => (t.c0.codec, t.c0.phase)) (step (start { quiet .c0 with char := some 0x3A })) =
      some ({ rxBuf := [], inFrame := true }, .pollFeedback) ∧
    view (fun t => (t.c0.codec, t.c0.phase))
      (step { start { quiet .c0 with char := some 0x50 } with
        c0 := { (start (quiet .c0)).c0 with codec := { rxBuf := [0x47], inFrame := true } } }) =
      some ({ rxBuf := [0x47, 0x50], inFrame := true }, .pollFeedback) := by decide

/-- A 12-bit sample with the stated constants, and the zero temperature of samples 932 and 933. -/
theorem witness_TemperatureAnswer :
    (933 : Nat) = (start { quiet .c0 with adc := 0x13A5 }).env.turn.adc.toNat % 2 ^ testCfg.adcBits ∧
    testCfg.temp = params.temp ∧ testCfg.adcBits = params.adcBits ∧ 0 < testCfg.temp.adcSteps ∧
    0 < testCfg.temp.slopeUv ∧ temperature testCfg.temp 932 = 0 ∧ temperature testCfg.temp 933 = 0 := by decide

theorem witness_StepRunsTheChannelsRequest :
    (placeWord 0x00020000 (start (quiet .c0))).faults = [] ∧
    (placeWord 0x00020000 (start (quiet .c0))).env.turn.agent = .c1 ∧
    (placeWord 0x00020000 (start (quiet .c0))).c1.phase = .poll ∧
    (placeWord 0x00020000 (start (quiet .c0))).chan = some 0x00020000 ∧ decodeChannelWord 0x00020000 = .go ∧
    (idleAt 0 .poll (quiet .c1)).chan = none := by decide

theorem witness_MovingStatusAnswer :
    (hostAt 256 0 (quiet .c0)).c0.hostTarget ≠ (hostAt 256 0 (quiet .c0)).c0.hostPosition ∧
    (hostAt 7 7 (quiet .c0)).c0.hostTarget = (hostAt 7 7 (quiet .c0)).c0.hostPosition := by decide

theorem witness_UnrecognizedVerbIsIgnored :
    verb16 0x30 0x31 ∉ rowVerbs ∧ ([0x47] : List Byte).length < 2 := by decide

theorem witness_SendingPutsCountsOrDrops :
    (sendingAt 0x100 0 none).c0.phase = .sending ∧ (sendingAt 0x100 0 none).c0.pendingSend = some 0x100 ∧
    (sendingAt 0x100 0 none).chan = none ∧ (sendingAt 0x100 1 (some 0x64)).chan = some 0x64 ∧
    (sendingAt 0x100 1 (some 0x64)).c0.sendAttempts + 1 ≠ testCfg.sendRetryLimit ∧
    (sendingAt 0x100 2 (some 0x64)).c0.sendAttempts + 1 = testCfg.sendRetryLimit := by decide

theorem witness_RetriesAreBounded :
    (sendingAt 0x100 0 (some 0x64)).c0.pendingSend = some 0x100 ∧ (sendingAt 0x100 0 (some 0x64)).chan = some 0x64 ∧
    (sendingAt 0x100 0 (some 0x64)).c0.sendAttempts < (sendingAt 0x100 0 (some 0x64)).cfg.sendRetryLimit := by decide

/-- C0 at PollFeedback with a report in `fb`. -/
def reportWaiting : State :=
  { start (quiet .c0) with
    fb := some (encodeReport 100 40), c0 := { (start (quiet .c0)).c0 with phase := .pollFeedback } }

theorem witness_FeedbackReachesTheHostRegisters :
    reportWaiting.c0.phase = .pollFeedback ∧ reportWaiting.fb = some (encodeReport 100 40) ∧
    ({ reportWaiting with fb := none }).fb = none := ⟨rfl, rfl, rfl⟩

theorem witness_FinalReportWaitsForTheSlot :
    (idleAt 100 .finalReport (quiet .c1)).c1.phase = .finalReport ∧ (idleAt 100 .finalReport (quiet .c1)).fb = none ∧
    ({ idleAt 100 .finalReport (quiet .c1) with fb := some 5 }).fb = some 5 := by decide

theorem witness_IntermediateReportPutsOrDrops :
    (start (quiet .c1)).fb = none ∧ ({ start (quiet .c1) with fb := some 5 }).fb = some 5 := by decide

/-- Targets above, below and at the position, at the ends of the range. -/
theorem witness_TargetStartsAMotion :
    (idleAt 0 .poll (quiet .c1)).motor.currentPosition.toNat < (0xFFFF : Position).toNat ∧
    (0 : Position).toNat < (idleAt 0xFFFF .poll (quiet .c1)).motor.currentPosition.toNat ∧
    (100 : Position) = (idleAt 100 .poll (quiet .c1)).motor.currentPosition := by decide

theorem witness_GoActsOnlyFromRest :
    (movingAt 40 100 .forward 2 .poll 20 (quiet .c1)).motor.mode = .stepping ∧
    (idleAt 100 .poll (quiet .c1)).motor.mode ≠ .stepping := by decide

theorem witness_RecalibrateDrivesToTheReference :
    (idleAt 100 .poll (quiet .c1)).cfg.recalPosition = 1000 ∧ (idleAt 100 .poll (quiet .c1)).cfg.recalTarget = 0 := by
  decide

theorem witness_GoFromIdleNeverPulses :
    Inv { idleAt 100 .poll (quiet .c1) with chan := some 0x00020000 } ∧
    (idleAt 100 .poll (quiet .c1)).motor.mode = .idle ∧ (idleAt 100 .poll (quiet .c1)).c1.phase = .poll ∧
    agentHasTurns .c1 2 { idleAt 100 .poll (quiet .c1) with chan := some 0x00020000 } :=
  ⟨inv_of_check (by decide) (by intro w hw; cases hw; rfl), rfl, rfl, by decide, by decide⟩

theorem witness_MotionStepOpensOrEndsABatch :
    (idleAt 100 .motion (quiet .c1)).c1.phase = .motion ∧ (idleAt 100 .motion (quiet .c1)).motor.mode ≠ .stepping ∧
    (movingAt 100 100 .forward 40 .motion 0 (quiet .c1)).motor.mode = .stepping ∧
    (movingAt 100 100 .forward 40 .motion 0 (quiet .c1)).motor.currentPosition = 100 ∧
    (movingAt 0 100 .forward 40 .motion 0 (quiet .c1)).motor.currentPosition ≠ 100 := by decide

/-- The hypotheses of a pulse in either direction, and those of its clauses: above the floor and at it, the target reached,
the batch complete with `fb` empty and full, and neither. -/
theorem witness_PulseMovesOneStep :
    ((movingAt 0 100 .forward 40 .pulsing 0 (quiet .c1)).c1.phase = .pulsing ∧
      (0 : Position).toNat < (100 : Position).toNat) ∧
    (movingAt 1 0 .reverse 2 .pulsing 3 (quiet .c1)).motor.direction = .reverse ∧
    testCfg.rampFloorMs.toNat < (movingAt 0 100 .forward 40 .pulsing 0 (quiet .c1)).motor.stepIntervalMs.toNat ∧
    (movingAt 19 100 .forward 2 .pulsing 19 (quiet .c1)).motor.stepIntervalMs.toNat ≤ testCfg.rampFloorMs.toNat ∧
    view (fun t => decide (t.motor.currentPosition = t.motor.targetPosition))
      (c1Step (movingAt 99 100 .forward 2 .pulsing 19 (quiet .c1))) = some true ∧
    view (fun t => (t.c1.batchCount, t.fb)) (c1Step (movingAt 19 100 .forward 2 .pulsing 19 (quiet .c1))) =
      some (testCfg.batchSize, some 0x00640014) ∧
    view (fun t => t.c1.batchCount)
      (c1Step { movingAt 39 100 .forward 2 .pulsing 19 (quiet .c1) with fb := some 0x00640014 }) =
      some testCfg.batchSize ∧
    view (fun t => t.c1.batchCount) (c1Step (movingAt 0 100 .forward 40 .pulsing 0 (quiet .c1))) = some 1 := by decide

theorem witness_RampReachesTheFloorLinearly : testCfg.wellFormed = true := by decide

theorem witness_PulsesApproachTheTarget :
    Inv (movingAt 0 100 .forward 40 .pulsing 0 (quiet .c1)) ∧
    (movingAt 0 100 .forward 40 .pulsing 0 (quiet .c1)).c1.phase = .pulsing ∧
    agentHasTurns .c1 9 (movingAt 0 100 .forward 40 .pulsing 0 (quiet .c1)) ∧ 9 ≤ distance 100 0 ∧
    9 ≤ testCfg.batchSize - 0 :=
  ⟨inv_of_check (by decide) (by intro w hw; cases hw), rfl, by constructor <;> decide, by decide, by decide⟩

/-- A motion at the start of an iteration, and for every number of steps an environment of that many C1 turns. -/
theorem witness_EveryMotionEndsAtItsTarget :
    Inv (movingAt 0 100 .forward 40 .override 0 (quiet .c1)) ∧
    (movingAt 0 100 .forward 40 .override 0 (quiet .c1)).motor.mode = .stepping ∧
    (movingAt 0 100 .forward 40 .override 0 (quiet .c1)).c1.phase = .override ∧
    (movingAt 0 100 .forward 40 .override 0 (quiet .c1)).chan = none ∧
    ∀ k : Nat, k ≤ (List.replicate k (quiet .c1)).length ∧
      ∀ t ∈ quiet .c1 :: List.replicate k (quiet .c1), t.agent = .c1 ∧ t.btnInc = false ∧ t.btnDec = false := by
  refine ⟨inv_of_check (by decide) (by intro w hw; cases hw), rfl, rfl, rfl, fun k => ⟨by simp, fun t ht => ?_⟩⟩
  rcases List.mem_cons.1 ht with rfl | ht
  · exact ⟨rfl, rfl, rfl⟩
  · rw [List.eq_of_mem_replicate ht]; exact ⟨rfl, rfl, rfl⟩

/-- Each clause at OVERRIDE_STEP: a decrease at 5 and at 4, an increase at the top. -/
theorem witness_OverrideArbitratesTheButtons :
    (idleAt 0xFFFF .override { quiet .c1 with btnInc := true }).c1.phase = .override ∧
    (idleAt 0xFFFF .override { quiet .c1 with btnInc := true }).env.turn.btnInc = true ∧
    (idleAt 0xFFFF .override { quiet .c1 with btnInc := true }).env.turn.btnDec = false ∧
    testCfg.overrideStep.toNat ≤ (idleAt 5 .override { quiet .c1 with btnDec := true }).motor.currentPosition.toNat ∧
    (idleAt 5 .override { quiet .c1 with btnDec := true }).env.turn.btnDec = true ∧
    (idleAt 4 .override { quiet .c1 with btnDec := true }).motor.currentPosition.toNat < testCfg.overrideStep.toNat ∧
    (idleAt 5 .override (quiet .c1)).env.turn.btnInc = (idleAt 5 .override (quiet .c1)).env.turn.btnDec := by decide

theorem witness_ClickWaveform :
    1 ≤ testCfg.irBursts ∧ 1 ≤ testCfg.irPulses ∧ testCfg.irBursts = 2 ∧ testCfg.irPulses = 16 ∧
    testCfg.irPulseUs = 15 ∧ testCfg.irGapUs = 7300 := by decide

/-- One state for each row of the phase table, all meeting the invariant. -/
theorem witness_ImagingPhasesMoveByTheTable :
    ({ idleAt 0 .imaging (quiet .c1) with cfg := { testCfg with hasIntervalometer := false } }).cfg.hasIntervalometer =
      false ∧
    (Inv (imagingAt false false false true []) ∧ Inv (imagingAt false false false false []) ∧
      Inv (imagingAt true true false true [{ kind := .exposure, delayMs := 900 }]) ∧
      Inv (imagingAt true true true true []) ∧ Inv (imagingAt true true true false []) ∧
      Inv (imagingAt true false true false [])) ∧
    imgPhase (imagingAt false false false true []) = .idle ∧
    imgPhase (imagingAt true true false true [{ kind := .exposure, delayMs := 900 }]) = .shutterOpen ∧
    imgPhase (imagingAt true false true false []) = .pauseAfterClose := by
  refine ⟨rfl, ⟨?_, ?_, ?_, ?_, ?_, ?_⟩, rfl, rfl, rfl⟩ <;>
    exact inv_of_check (by decide) (by intro w hw; cases hw)

/-- A session's opening click from reset: no click yet and the shutter closed. -/
theorem witness_StepKeepsClicksMatchingShutter :
    1 ≤ testCfg.irBursts ∧ 1 ≤ testCfg.irPulses ∧ ClicksMatchShutter (imagingAt false false false true []) ∧
    ∃ t, step (imagingAt false false false true []) = .next t :=
  ⟨by decide, by decide, ⟨0, by decide, by decide⟩, ⟨_, rfl⟩⟩

theorem witness_OneAlarmFires :
    ({ start (quiet .irq) with alarms := twoAlarms }).alarms ≠ [] ∧
    ({ kind := .exposure, delayMs := 900 } : Alarm) ∈ twoAlarms ∧
    ({ kind := .cooldown, delayMs := 2000 } : Alarm) ∈ twoAlarms ∧ (start (quiet .irq)).alarms = [] := by decide

theorem witness_AlarmsAreAMultiset :
    alarmsSorted twoAlarms = true ∧ twoAlarms.Perm twoAlarms := ⟨by decide, List.Perm.refl _⟩

/-- ST8's state, and a state with a Defect. -/
theorem witness_DefectEndsTheRun :
    (movingAt 0 0xFFFB .reverse 2 .pulsing 0 (quiet .c1)).c1.phase = .pulsing ∧
    (movingAt 0 0xFFFB .reverse 2 .pulsing 0 (quiet .c1)).motor.direction = .reverse ∧
    (0 : Position).toNat ≤ (0xFFFB : Position).toNat ∧
    (movingAt 7 7 .forward 2 .pulsing 0 (quiet .c1)).motor.direction = .forward ∧
    ({ start (quiet .c1) with faults := [.directionInconsistent] }).faults ≠ [] := by decide

/-- The test configuration is one that boots, and the same without a batch, or with a poll timeout out of its range, one
that does not. -/
theorem witness_BootRefusesIllFormedConfigurations :
    testCfg.wellFormed = true ∧ testCfg.meetsTable = true ∧ ({ testCfg with batchSize := 0 }).wellFormed = false ∧
    ({ testCfg with chanPollTimeoutUs := 9 }).wellFormed = true ∧
    ({ testCfg with chanPollTimeoutUs := 9 }).meetsTable = false := by decide

/-- A pulse from a state that meets the invariant. -/
theorem witness_StepKeepsInv :
    Inv (movingAt 0 100 .forward 40 .pulsing 0 (quiet .c1)) ∧
    ∃ t, step (movingAt 0 100 .forward 40 .pulsing 0 (quiet .c1)) = .next t :=
  ⟨inv_of_check (by decide) (by intro w hw; cases hw), ⟨_, rfl⟩⟩

theorem witness_NoRunRecordsADefect : Inv (movingAt 99 100 .forward 2 .pulsing 19 (quiet .c1)) :=
  inv_of_check (by decide) (by intro w hw; cases hw)

/-- A step of each agent, and of C1 at Poll. -/
theorem witness_AgentsWriteOnlyTheirOwn :
    (∃ t, step (start (quiet .c0)) = .next t) ∧ (start (quiet .c0)).env.turn.agent = .c0 ∧
    (∃ t, step (idleAt 0 .motion (quiet .c1)) = .next t) ∧ (idleAt 0 .motion (quiet .c1)).c1.phase ≠ .poll ∧
    (∃ t, step { idleAt 0 .poll (quiet .c1) with chan := some 7 } = .next t) ∧
    (∃ t, step { start (quiet .irq) with alarms := twoAlarms } = .next t) ∧ (start (quiet .irq)).env.turn.agent = .irq :=
  ⟨⟨_, rfl⟩, rfl, ⟨_, rfl⟩, by decide, ⟨_, rfl⟩, ⟨_, rfl⟩, rfl⟩

theorem witness_MotorSideIgnoresHostRegisters :
    (movingAt 0 100 .forward 40 .pulsing 0 (quiet .c1)).env.turn.agent ≠ .c0 ∧
    ∃ t, step (movingAt 0 100 .forward 40 .pulsing 0 (quiet .c1)) = .next t := ⟨by decide, ⟨_, rfl⟩⟩

theorem witness_HostSideIgnoresMotorRegisters :
    (placeFrame [0x47, 0x50] (start (quiet .c0))).env.turn.agent = .c0 ∧
    ∃ t, step (placeFrame [0x47, 0x50] (start (quiet .c0))) = .next t := ⟨rfl, ⟨_, rfl⟩⟩

theorem witness_TracesOnlyGrowAndConfigStays :
    ∃ t, step (placeFrame [0x47, 0x50] (start (quiet .c0))) = .next t := ⟨_, rfl⟩

theorem witness_StepKeepsPinsFollowingTrace :
    PinsFollowTrace (idleAt 0 .override { quiet .c1 with btnInc := true }) ∧
    ∃ t, step (idleAt 0 .override { quiet .c1 with btnInc := true }) = .next t :=
  ⟨by intro id; cases id <;> rfl, ⟨_, rfl⟩⟩

/-- Steps that change the position, the target and the output. -/
theorem witness_OnlyTheirRulesWritePositions :
    view (fun t => t.motor.currentPosition) (step (movingAt 0 100 .forward 40 .pulsing 0 (quiet .c1))) = some 1 ∧
    view (fun t => t.motor.currentPosition) (step { idleAt 7 .poll (quiet .c1) with chan := some 0x30000 }) = some 1000 ∧
    view (fun t => t.motor.targetPosition) (step { idleAt 7 .poll (quiet .c1) with chan := some 8 }) = some 8 ∧
    view (fun t => t.motor.targetPosition) (step (idleAt 7 .override { quiet .c1 with btnInc := true })) = some 12 ∧
    view (fun t => t.hostOut.length) (step (placeFrame [0x47, 0x50] (start (quiet .c0)))) = some 5 := by decide

theorem witness_QuiescenceIsStable :
    Inv (start (quiet .c1)) ∧ Quiescent (start (quiet .c1)) ∧ 8 ≤ (start (quiet .c1)).env.script.length ∧
    ∀ t ∈ (start (quiet .c1)).env.turn :: (start (quiet .c1)).env.script, quietTurn t := by
  refine ⟨inv_of_check (by decide) (by intro w hw; cases hw), by unfold Quiescent; decide, by decide, fun t ht => ?_⟩
  rcases List.mem_cons.1 ht with rfl | ht
  · exact ⟨rfl, rfl, rfl, rfl⟩
  · rw [List.eq_of_mem_replicate ht]; exact ⟨rfl, rfl, rfl, rfl⟩

/-! ## A fair run -/

/-- C0, C1 and IRQ in rotation, with inactive inputs. -/
def rotation (n : Nat) : Turn := quiet (if n % 3 = 0 then .c0 else if n % 3 = 1 then .c1 else .irq)

/-- The test state after reset but for the phases, the trace and the turns. -/
def restingAt (p : C0Phase) (q : C1Phase) (trace : List PinEvent) (e : Env) : State :=
  { start (quiet .c0) with
    c0 := { (start (quiet .c0)).c0 with phase := p }, c1 := { (start (quiet .c0)).c1 with phase := q }
    pinTrace := trace, env := e }

/-- The rotation changes nothing else. -/
theorem rotation_rests (n : Nat) :
    ∃ p q trace e, (p = .getChar ∨ p = .pollFeedback) ∧ (q = .override ∨ q = .imaging ∨ q = .poll ∨ q = .motion) ∧
      runUnder rotation (restingAt .getChar .override [] (always (quiet .c0))) n = restingAt p q trace e := by
  induction n with
  | zero => exact ⟨_, _, _, _, .inl rfl, .inl rfl, rfl⟩
  | succ n ih =>
    obtain ⟨p, q, trace, e, hp, hq, h⟩ := ih
    have agents : ∃ a, rotation n = quiet a := ⟨_, rfl⟩
    obtain ⟨a, ha⟩ := agents
    rw [runUnder, h, ha]
    cases a
    · rcases hp with rfl | rfl
      · exact ⟨.pollFeedback, q, _, _, .inr rfl, hq, rfl⟩
      · exact ⟨.getChar, q, _, _, .inl rfl, hq, rfl⟩
    · rcases hq with rfl | rfl | rfl | rfl
      · exact ⟨p, .imaging, _, _, hp, .inr (.inl rfl), rfl⟩
      · exact ⟨p, .poll, _, _, hp, .inr (.inr (.inl rfl)), rfl⟩
      · exact ⟨p, .motion, _, _, hp, .inr (.inr (.inr rfl)), rfl⟩
      · exact ⟨p, .override, _, _, hp, .inl rfl, rfl⟩
    · exact ⟨p, q, _, _, hp, hq, rfl⟩

theorem witness_FairRunsComeToRest :
    Inv (restingAt .getChar .override [] (always (quiet .c0))) ∧
    WeaklyFair rotation (restingAt .getChar .override [] (always (quiet .c0))) ∧
    (∀ m, 0 ≤ m → quietTurn (rotation m)) ∧
    (runUnder rotation (restingAt .getChar .override [] (always (quiet .c0))) 0).c0.codec.inFrame = false := by
  refine ⟨inv_of_check (by decide) (by intro w hw; cases hw), ⟨fun a n => ?_, fun n x hx => ?_⟩,
    fun m _ => ⟨rfl, rfl, rfl, rfl⟩, rfl⟩
  · cases a
    · exact ⟨3 * n, by omega, .inl (by simp [rotation, quiet])⟩
    · exact ⟨3 * n + 1, by omega, .inl (by simp [rotation, quiet, Nat.add_mod])⟩
    · exact ⟨3 * n + 2, by omega, .inl (by simp [rotation, quiet, Nat.add_mod])⟩
  · obtain ⟨p, q, trace, e, -, -, h⟩ := rotation_rests n
    rw [h] at hx
    cases hx

end Sys2Proof.Tests
end

section
/-! What reset leaves, one lemma per row group of 10_state.md R48's table: the registers, mailboxes, pins, alarms and
traces of `State.resetOf`, then the two statuses that are computed from them. -/

namespace Sys2Proof.Machine

/-! ## The stored state after reset -/

@[simp] theorem resetOf_cfg (c : Config) (e : Env) : (State.resetOf c e).cfg = c := rfl
@[simp] theorem resetOf_env (c : Config) (e : Env) : (State.resetOf c e).env = e := rfl
@[simp] theorem resetOf_motor (c : Config) (e : Env) :
    (State.resetOf c e).motor =
    { mode := .idle, currentPosition := 0, targetPosition := 0, stepIntervalMs := c.rampMaxMs,
      direction := .forward, stepsRemaining := 0 } := rfl
@[simp] theorem resetOf_c1 (c : Config) (e : Env) :
    (State.resetOf c e).c1 = { phase := .override, batchCount := 0, pendingFinal := 0 } := rfl
@[simp] theorem resetOf_imaging (c : Config) (e : Env) :
    (State.resetOf c e).imaging = { started := false, shutterOpen := false, clickRequired := false } := rfl
@[simp] theorem resetOf_c0 (c : Config) (e : Env) :
    (State.resetOf c e).c0 =
    { codec := { rxBuf := [], inFrame := false }, hostTarget := 0, hostPosition := 0,
      legacyDelay := c.legacyDelayReset, pendingSend := none, sendAttempts := 0, phase := .getChar } := rfl
@[simp] theorem resetOf_chan (c : Config) (e : Env) : (State.resetOf c e).chan = none := rfl
@[simp] theorem resetOf_fb (c : Config) (e : Env) : (State.resetOf c e).fb = none := rfl
@[simp] theorem resetOf_pins (c : Config) (e : Env) :
    (State.resetOf c e).pins =
    { step := false, dir := c.dirPinAtReset, stop := c.stopLineAtReset, ir := false } := rfl
@[simp] theorem resetOf_alarms (c : Config) (e : Env) : (State.resetOf c e).alarms = [] := rfl
@[simp] theorem resetOf_hostOut (c : Config) (e : Env) : (State.resetOf c e).hostOut = [] := rfl
@[simp] theorem resetOf_pinTrace (c : Config) (e : Env) : (State.resetOf c e).pinTrace = [] := rfl
@[simp] theorem resetOf_dropLog (c : Config) (e : Env) : (State.resetOf c e).dropLog = [] := rfl
@[simp] theorem resetOf_faults (c : Config) (e : Env) : (State.resetOf c e).faults = [] := rfl

/-! ## The computed status after reset -/

/-- An Idle engine is not stepping (10_state.md R24). -/
theorem stepping_eq_false_of_idle {s : State} (hmode : s.motor.mode = .idle) : stepping s = false := by
  simp [stepping, hmode]

/-- An empty buffer has length 0 (10_state.md R33). -/
theorem rxLen_eq_zero_of_empty {s : State} (hbuf : s.c0.codec.rxBuf = []) : rxLen s = 0 := by
  simp [rxLen, hbuf]

@[simp] theorem stepping_resetOf (c : Config) (e : Env) : stepping (State.resetOf c e) = false :=
  stepping_eq_false_of_idle (by rw [resetOf_motor])

@[simp] theorem rxLen_resetOf (c : Config) (e : Env) : rxLen (State.resetOf c e) = 0 :=
  rxLen_eq_zero_of_empty (by rw [resetOf_c0])

/-- RAMP_MAX_MS as 00_scope.md R7 states it, the number R48's table names in its stepIntervalMs row. -/
theorem params_rampMaxMs : params.rampMaxMs = 40 := rfl

/-! ## The whole table -/

/-- Settles O48: R48's table, row group by row group, for every configuration. -/
theorem resetValues : Obligations.ResetValues := by
  rintro c e _ rfl
  exact ⟨resetOf_motor c e, stepping_resetOf c e, resetOf_c1 c e, resetOf_imaging c e, resetOf_c0 c e,
    rxLen_resetOf c e, resetOf_chan c e, resetOf_fb c e, resetOf_pins c e, resetOf_alarms c e, resetOf_hostOut c e,
    resetOf_pinTrace c e, resetOf_dropLog c e, resetOf_faults c e, params_rampMaxMs⟩

end Sys2Proof.Machine
end

section
/-! The mailbox primitives of 20_memory.md R64: what a take does and when a slot is full, beside the put's two cases in
Laws/Ops.lean, and from them that a slot holds one word, never overwritten. -/

namespace Sys2Proof.Machine

/-- A take answers what the slot held, if anything, and leaves the slot empty either way (20_memory.md R64). -/
@[simp] theorem slotTake_eq (slot : Option Word32) : slotTake slot = (slot, none) := rfl

theorem slotFull_iff_exists (slot : Option Word32) : slotFull slot = true ↔ ∃ h, slot = some h := by
  cases slot with
  | none => simp only [slotFull_none, Bool.false_eq_true, reduceCtorEq, exists_false]
  | some h => simp only [slotFull_some, Option.some.injEq, exists_eq']

/-- Settles O25: the put by whether the slot is empty, the take of a full and of an empty slot, and the fullness test. -/
theorem mailboxHoldsOneWord : Obligations.MailboxHoldsOneWord :=
  ⟨slotTryPut_none, slotTryPut_some, fun h => slotTake_eq (some h), slotTake_eq none, slotFull_iff_exists⟩

end Sys2Proof.Machine
end

section
/-! The layouts of the words in the two mailboxes (30_encoding.md R97, R99): the channel word of each request, and the
feedback word as the target's bits over the current position's. -/

namespace Sys2Proof.Machine

/-! ## The channel word -/

/-- A Target's channel word is its position, widened with zeros: KIND and the reserved bits are 0
(30_encoding.md R97). -/
theorem encodeRequest_target (v : Position) : encodeRequest (.target v) = v.setWidth 32 :=
  BitVec.ofNat_toNat 32 v

@[simp] theorem encodeRequest_target_toNat (v : Position) : (encodeRequest (.target v)).toNat = v.toNat := by
  rw [encodeRequest_target, BitVec.toNat_setWidth_of_le (by decide)]

/-- Settles O3: a Target's word is its position, and the words of the other three requests are their KIND alone. -/
theorem channelWordLayout : Obligations.ChannelWordLayout :=
  ⟨encodeRequest_target_toNat, rfl, rfl, rfl⟩

/-! ## The feedback word -/

/-- Neither half of a feedback word spills over: the two positions fill its 32 bits (30_encoding.md R99). -/
@[simp] theorem encodeReport_toNat (t c : Position) : (encodeReport t c).toNat = t.toNat * 65536 + c.toNat := by
  have ht := t.isLt
  have hc := c.isLt
  rw [encodeReport, BitVec.toNat_ofNat, Nat.mod_eq_of_lt (by omega)]

/-- A feedback word is the target's bits followed by the current position's. -/
theorem encodeReport_eq_append (t c : Position) : encodeReport t c = t ++ c := by
  apply BitVec.eq_of_toNat_eq
  rw [encodeReport_toNat, BitVec.toNat_append, ← Nat.shiftLeft_add_eq_or_of_lt c.isLt, Nat.shiftLeft_eq]

@[simp] theorem reportTarget_encodeReport (t c : Position) : reportTarget (encodeReport t c) = t := by
  rw [encodeReport_eq_append, reportTarget, BitVec.extractLsb'_append_eq_left]

@[simp] theorem reportCurrent_encodeReport (t c : Position) : reportCurrent (encodeReport t c) = c := by
  rw [encodeReport_eq_append, reportCurrent, BitVec.extractLsb'_append_eq_right]

/-- Settles O5: fbWord is the report of the engine's two registers, and a report's halves are the positions it was made
of. -/
theorem feedbackWordLayout : Obligations.FeedbackWordLayout :=
  ⟨fun s => encodeReport_toNat s.motor.targetPosition s.motor.currentPosition,
    fun t c => ⟨reportTarget_encodeReport t c, reportCurrent_encodeReport t c⟩, rfl⟩

end Sys2Proof.Machine
end

section
/-! The characters that the codec ignores (30_encoding.md R90; 40_codec.md R133, R134): the class of every code, then
what an ignored character does to the codec, to the block and to what a stream dispatches. -/

namespace Sys2Proof.Machine

/-! ## The class of a character -/

theorem codeBetween_iff {lo hi : Nat} {ch : Byte} : codeBetween lo hi ch = true ↔ lo ≤ ch.toNat ∧ ch.toNat ≤ hi := by
  simp only [codeBetween, Bool.and_eq_true, decide_eq_true_eq]

theorem isDataChar_iff {ch : Byte} : isDataChar ch = true ↔
    (0x30 ≤ ch.toNat ∧ ch.toNat ≤ 0x39) ∨ (0x41 ≤ ch.toNat ∧ ch.toNat ≤ 0x5A) := by
  rw [isDataChar, Bool.or_eq_true, codeBetween_iff, codeBetween_iff]

/-- `:` and `#` are no data characters, so the order in which charClass asks does not matter. -/
theorem ne_delimiter_of_isDataChar {ch : Byte} (h : isDataChar ch = true) : ch ≠ 0x3A ∧ ch ≠ 0x23 :=
  ⟨by rintro rfl; exact absurd h (by decide), by rintro rfl; exact absurd h (by decide)⟩

theorem charClass_eq_frameStart_iff {ch : Byte} : charClass ch = .frameStart ↔ ch = 0x3A := by
  unfold charClass
  split_ifs <;> simp_all

theorem charClass_eq_frameEnd_iff {ch : Byte} : charClass ch = .frameEnd ↔ ch = 0x23 := by
  unfold charClass
  split_ifs <;> simp_all

theorem charClass_eq_data_iff {ch : Byte} : charClass ch = .data ↔ isDataChar ch = true := by
  have apart : isDataChar ch = true → ch ≠ 0x3A ∧ ch ≠ 0x23 := ne_delimiter_of_isDataChar
  unfold charClass
  split_ifs <;> simp_all

theorem charClass_eq_other_iff {ch : Byte} :
    charClass ch = .other ↔ ch ≠ 0x3A ∧ ch ≠ 0x23 ∧ ¬ isDataChar ch = true := by
  unfold charClass
  split_ifs <;> simp_all

/-! ## The codec and an ignored character -/

/-- A character of class OTHER leaves the codec as it is, in and out of a frame (40_codec.md R134). -/
theorem codecFeed_other {ch : Byte} (h : charClass ch = .other) (cap : Nat) (k : Codec) :
    codecFeed cap k ch = (k, none) := by
  simp only [codecFeed, h]

/-- Outside a frame a data character leaves the codec as it is (40_codec.md R133). -/
theorem codecFeed_data_outside {ch : Byte} {k : Codec} (h : charClass ch = .data) (outside : k.inFrame = false)
    (cap : Nat) : codecFeed cap k ch = (k, none) := by
  simp only [codecFeed, h, outside, Bool.false_and, Bool.false_eq_true, if_false]

/-- A character that leaves the codec as it is and completes no frame changes nothing in the block. -/
theorem processChar_of_codec_unchanged {ch : Byte} {s : State}
    (h : codecFeed s.cfg.bufCap s.c0.codec ch = (s.c0.codec, none)) : processChar ch s = .next s := by
  simp only [processChar, h]

/-! ## Streams with ignored characters -/

theorem decodeStream_cons_of_codec_unchanged {c : Config} {k : Codec} {ch : Byte}
    (h : codecFeed c.bufCap k ch = (k, none)) (rest : List Byte) :
    decodeStream c k (ch :: rest) = decodeStream c k rest := by
  rw [decodeStream, h]

/-- A stream dispatches what it dispatches without its characters of class OTHER (40_codec.md R134). -/
theorem decodeStream_filter_other (c : Config) (k : Codec) (chars : List Byte) :
    decodeStream c k (chars.filter (charClass · ≠ .other)) = decodeStream c k chars := by
  induction chars generalizing k with
  | nil => rfl
  | cons ch rest ih =>
    by_cases other : charClass ch = .other
    · rw [List.filter_cons_of_neg (by simpa using other), ih,
        decodeStream_cons_of_codec_unchanged (codecFeed_other other c.bufCap k)]
    · rw [List.filter_cons_of_pos (by simpa using other)]
      simp only [decodeStream, ih]

theorem decode_frame_filter_other (c : Config) (chars : List Byte) :
    decode c (.frame (chars.filter (charClass · ≠ .other))) = decode c (.frame chars) := by
  simp only [decode, decodeStream_filter_other]

/-- Data characters before the first `:` dispatch nothing (40_codec.md R133). -/
theorem decodeStream_skip_data {k : Codec} (outside : k.inFrame = false) (c : Config) {skipped : List Byte}
    (data : ∀ ch ∈ skipped, charClass ch = .data) (rest : List Byte) :
    decodeStream c k (skipped ++ rest) = decodeStream c k rest := by
  induction skipped with
  | nil => rfl
  | cons ch skipped ih =>
    obtain ⟨hch, hskipped⟩ := List.forall_mem_cons.1 data
    rw [List.cons_append, decodeStream_cons_of_codec_unchanged (codecFeed_data_outside hch outside c.bufCap),
      ih hskipped]

theorem decode_frame_skip_data (c : Config) {skipped : List Byte} (data : ∀ ch ∈ skipped, charClass ch = .data)
    (rest : List Byte) : decode c (.frame (skipped ++ rest)) = decode c (.frame rest) := by
  simp only [decode, decodeStream_skip_data (k := { rxBuf := [], inFrame := false }) rfl c data]

/-! ## The rules' own examples (40_codec.md R133, R134) -/

/-- `XY:GP#` dispatches what `:GP#` does. -/
theorem decode_data_before_frame : decode params (.frame [0x58, 0x59, 0x3A, 0x47, 0x50, 0x23]) = .ok .gp :=
  (decode_frame_skip_data params (skipped := [0x58, 0x59]) (by decide) [0x3A, 0x47, 0x50, 0x23]).trans rfl

/-- `:G P#` dispatches what `:GP#` does. -/
theorem decode_space_in_verb : decode params (.frame [0x3A, 0x47, 0x20, 0x50, 0x23]) = .ok .gp :=
  (decode_frame_filter_other params _).symm.trans rfl

/-- `:S N 0 1 0 0#` dispatches what `:SN0100#` does. -/
theorem decode_spaces_in_payload :
    decode params (.frame [0x3A, 0x53, 0x20, 0x4E, 0x20, 0x30, 0x20, 0x31, 0x20, 0x30, 0x20, 0x30, 0x23]) =
      .ok (.sn 0x0100) :=
  (decode_frame_filter_other params _).symm.trans rfl

/-- `:gp#` dispatches what the empty frame does. -/
theorem decode_lowercase_verb : decode params (.frame [0x3A, 0x67, 0x70, 0x23]) = .ok (.unrecognized none) :=
  (decode_frame_filter_other params _).symm.trans rfl

/-- `GP#` dispatches what a `#` outside a frame does: nothing. -/
theorem decode_without_frameStart : decode params (.frame [0x47, 0x50, 0x23]) = .error .noFrame :=
  (decode_frame_skip_data params (skipped := [0x47, 0x50]) (by decide) [0x23]).trans rfl

/-- Settles O12: the class of every code, then the two ways to be ignored by the codec, each of which leaves the whole
block as it is, and the rules' own examples. -/
theorem ignoredCharactersChangeNothing : Obligations.IgnoredCharactersChangeNothing := by
  intro s ch
  refine ⟨charClass_eq_data_iff.trans isDataChar_iff, charClass_eq_data_iff.symm, charClass_eq_frameStart_iff,
    charClass_eq_frameEnd_iff, ?other, fun data outside => ?dataOutside, fun other => ?otherAnywhere,
    decode_data_before_frame, decode_space_in_verb, decode_spaces_in_payload, decode_lowercase_verb,
    decode_without_frameStart⟩
  case other => rw [charClass_eq_other_iff, isDataChar_iff, not_or]
  case dataOutside => exact processChar_of_codec_unchanged (codecFeed_data_outside data outside _)
  case otherAnywhere => exact processChar_of_codec_unchanged (codecFeed_other other _ _)

end Sys2Proof.Machine
end

section
/-! Host commands (41_host_commands.md): what a frame of data characters dispatches, how the dispatch table reads a kept
buffer, and from them the verbs of a fixed answer and the verbs that do nothing. -/

namespace Sys2Proof.Machine

/-! ## A frame of data characters -/

/-- Within BUF_CAP a data character in a frame is kept (40_codec.md R132). -/
theorem codecFeed_data_kept {cap : Nat} {buf : List Byte} {ch : Byte} (data : isDataChar ch = true)
    (room : buf.length < cap) : codecFeed cap ⟨buf, true⟩ ch = (⟨buf ++ [ch], true⟩, none) := by
  simp [codecFeed, charClass_eq_data_iff.2 data, room]

/-- Data characters that fit into the buffer, then `#`, dispatch the buffer they complete (40_codec.md R132, R135). -/
theorem decodeStream_data_frameEnd {c : Config} {body : List Byte} (data : ∀ ch ∈ body, isDataChar ch = true)
    {buf : List Byte} (fits : buf.length + body.length ≤ c.bufCap) :
    decodeStream c ⟨buf, true⟩ (body ++ [0x23]) = [decodeBuffer c (buf ++ body)] := by
  induction body generalizing buf with
  | nil => rw [List.append_nil]; rfl
  | cons ch body ih =>
    obtain ⟨hch, hbody⟩ := List.forall_mem_cons.1 data
    rw [List.length_cons] at fits
    rw [List.cons_append, decodeStream, codecFeed_data_kept hch (by omega)]
    have complete := ih hbody (buf := buf ++ [ch]) (by simp only [List.length_append, List.length_singleton]; omega)
    rwa [List.append_assoc, List.singleton_append] at complete

/-- A frame of data characters that fit into BUF_CAP spells the instruction of those characters
(30_encoding.md R91). -/
theorem decode_frame_of_data {c : Config} {body : List Byte} (data : ∀ ch ∈ body, isDataChar ch = true)
    (fits : body.length ≤ c.bufCap) : decode c (.frame (0x3A :: (body ++ [0x23]))) = .ok (decodeBuffer c body) := by
  have opened : decodeStream c ⟨[], false⟩ (0x3A :: (body ++ [0x23])) = decodeStream c ⟨[], true⟩ (body ++ [0x23]) := rfl
  simp only [decode, opened, decodeStream_data_frameEnd data (buf := []) (by simpa using fits), List.nil_append]

/-! ## Hex digits -/

theorem isDataChar_hexChar : ∀ d : BitVec 4, isDataChar (hexChar d) = true := by decide

/-- HexValue reads the digit of a nibble back as the nibble (40_codec.md R137, R142). -/
@[simp] theorem hexDigitValue_hexChar : ∀ d : BitVec 4, hexDigitValue (hexChar d) = some d.toNat := by decide

@[simp] theorem hexValueFrom_nil (n : Nat) : hexValueFrom n [] = n := rfl

@[simp] theorem hexValueFrom_hexChar_cons (n : Nat) (d : BitVec 4) (cs : List Byte) :
    hexValueFrom n (hexChar d :: cs) = hexValueFrom (n * 16 + d.toNat) cs := by
  rw [hexValueFrom, hexDigitValue_hexChar]

@[simp] theorem hexDigits4_length (v : Word16) : (hexDigits4 v).length = 4 := rfl

theorem isDataChar_of_mem_hexDigits4 {v : Word16} {ch : Byte} (h : ch ∈ hexDigits4 v) : isDataChar ch = true := by
  simp only [hexDigits4, List.mem_cons, List.not_mem_nil, or_false] at h
  obtain rfl | rfl | rfl | rfl := h <;> exact isDataChar_hexChar _

/-- The four nibbles, most significant first, are the value's base-16 expansion. -/
@[simp] theorem hexValue_hexDigits4 (v : Word16) : hexValue (hexDigits4 v) = v.toNat := by
  have bound := v.isLt
  simp only [hexValue, hexDigits4, hexValueFrom_hexChar_cons, hexValueFrom_nil, BitVec.extractLsb'_toNat,
    Nat.shiftRight_eq_div_pow]
  omega

/-! ## The dispatch table -/

/-- The verbs of the dispatch table are the verbs with a row of their own (30_encoding.md R100). -/
theorem verbTable_map_fst : verbTable.map Prod.fst = rowVerbs := rfl

theorem verbTable_lookup_eq_none {verb : Word16} (noRow : verb ∉ rowVerbs) : verbTable.lookup verb = none := by
  rw [List.lookup_eq_none_iff]
  intro row hrow
  rw [bne_iff_ne]
  rintro rfl
  exact noRow (verbTable_map_fst ▸ List.mem_map_of_mem hrow)

@[simp] theorem parse_verb (c : Config) (b0 b1 : Byte) (rest : List Byte) :
    (parse c (b0 :: b1 :: rest)).verb = some (verb16 b0 b1) := by
  rw [parse]
  split <;> rfl

/-- The value of a verb of VALUE_VERBS is that of its first PAYLOAD_DIGITS payload characters (40_codec.md R136). -/
theorem parse_value_of_mem {c : Config} {b0 b1 : Byte} (valued : verb16 b0 b1 ∈ c.valueVerbs) (rest : List Byte) :
    (parse c (b0 :: b1 :: rest)).value = BitVec.ofNat 32 (hexValue (rest.take c.payloadDigits)) := by
  rw [parse, if_pos (List.contains_iff_mem.2 valued)]

/-- A verb with a row of its own decodes to what the row makes of the frame's value (41_host_commands.md R160). -/
theorem decodeBuffer_of_row {b0 b1 : Byte} {build : Word16 → Instr}
    (row : verbTable.lookup (verb16 b0 b1) = some build) (c : Config) (rest : List Byte) :
    decodeBuffer c (b0 :: b1 :: rest) = build ((parse c (b0 :: b1 :: rest)).value.setWidth 16) := by
  simp only [decodeBuffer, instrOfCommand, parse_verb, row]

/-- A verb of no row decodes to the fallback row (41_host_commands.md R161). -/
theorem decodeBuffer_of_no_row {b0 b1 : Byte} (noRow : verb16 b0 b1 ∉ rowVerbs) (c : Config) (rest : List Byte) :
    decodeBuffer c (b0 :: b1 :: rest) = .unrecognized (some (verb16 b0 b1)) := by
  simp only [decodeBuffer, instrOfCommand, parse_verb, verbTable_lookup_eq_none noRow]

/-- Fewer than two kept characters are no verb (30_encoding.md R92). -/
theorem decodeBuffer_of_length_lt_two {buf : List Byte} (short : buf.length < 2) (c : Config) :
    decodeBuffer c buf = .unrecognized none := by
  match buf, short with
  | [], _ => rfl
  | [_], _ => rfl
  | _ :: _ :: rest, short => exact absurd short (by simp)

/-! ## The frames of the verbs, as the block has its parameters after reset -/

theorem params_bufCap : params.bufCap = 8 := rfl

/-- The frame of a verb that takes no value. -/
theorem decode_frame_of_plain_verb {b0 b1 : Byte} {i : Instr} (row : verbTable.lookup (verb16 b0 b1) = some fun _ => i)
    (data : ∀ ch ∈ [b0, b1], isDataChar ch = true) : decode params (.frame [0x3A, b0, b1, 0x23]) = .ok i := by
  have frame := decode_frame_of_data (c := params) data (by simp [params_bufCap])
  rwa [decodeBuffer_of_row row] at frame

/-- The frame of a verb of VALUE_VERBS with four hex digits carries the digits' value, whichever it is. -/
theorem decode_frame_of_value_verb {b0 b1 : Byte} {build : Word16 → Instr}
    (row : verbTable.lookup (verb16 b0 b1) = some build) (data : ∀ ch ∈ [b0, b1], isDataChar ch = true)
    (valued : verb16 b0 b1 ∈ params.valueVerbs) (v : Word16) :
    decode params (.frame ([0x3A, b0, b1] ++ hexDigits4 v ++ [0x23])) = .ok (build v) := by
  have body : ∀ ch ∈ [b0, b1] ++ hexDigits4 v, isDataChar ch = true := fun ch h =>
    (List.mem_append.1 h).elim (data ch) isDataChar_of_mem_hexDigits4
  have digits : (hexDigits4 v).take params.payloadDigits = hexDigits4 v := rfl
  have value : (parse params (b0 :: b1 :: hexDigits4 v)).value.setWidth 16 = v := by
    rw [parse_value_of_mem valued, digits, hexValue_hexDigits4]
    simp
  calc decode params (.frame ([0x3A, b0, b1] ++ hexDigits4 v ++ [0x23]))
      = .ok (decodeBuffer params (b0 :: b1 :: hexDigits4 v)) :=
        decode_frame_of_data (c := params) body (by simp [params_bufCap])
    _ = .ok (build v) := by rw [decodeBuffer_of_row row, value]

/-! ## Verbs with a fixed answer -/

/-- Emitting characters is one record update: the output grows and nothing else changes. -/
theorem emit_eq (cs : List Byte) (s : State) : emit cs s = { s with hostOut := s.hostOut ++ cs } := rfl

theorem fmtText_eq (text : List Byte) : fmtText text = text ++ [0x23] := rfl

theorem exec_gh (s : State) : exec .gh s = .next (emit (fmtText text00) s) := rfl
theorem exec_gc (s : State) : exec .gc s = .next (emit (fmtText text00) s) := rfl
theorem exec_gv (s : State) : exec .gv s = .next (emit (fmtText s.cfg.fwVersionText) s) := rfl

/-- Settles O16: each of the three emits its text and `#`, and its frame's verb has its row in the dispatch table. -/
theorem fixedAnswers : Obligations.FixedAnswers := by
  refine ⟨fun s => ⟨?gh, ?gc, ?gv⟩, rfl, decode_frame_of_plain_verb rfl (by decide),
    decode_frame_of_plain_verb rfl (by decide), decode_frame_of_plain_verb rfl (by decide)⟩
  case gh => rw [exec_gh, emit_eq, fmtText_eq]; rfl
  case gc => rw [exec_gc, emit_eq, fmtText_eq]; rfl
  case gv => rw [exec_gv, emit_eq, fmtText_eq, List.append_assoc]

/-! ## Verbs that do nothing -/

@[simp] theorem exec_sf (s : State) : exec .sf s = .next s := rfl
@[simp] theorem exec_yb (v : Word16) (s : State) : exec (.yb v) s = .next s := rfl
@[simp] theorem exec_zb (s : State) : exec .zb s = .next s := rfl
@[simp] theorem exec_zt (s : State) : exec .zt s = .next s := rfl
@[simp] theorem exec_za (s : State) : exec .za s = .next s := rfl
@[simp] theorem exec_sp (v : Word16) (s : State) : exec (.sp v) s = .next s := rfl
@[simp] theorem exec_yt (v : Word16) (s : State) : exec (.yt v) s = .next s := rfl
@[simp] theorem exec_db (v : Word16) (s : State) : exec (.db v) s = .next s := rfl
@[simp] theorem exec_unrecognized (verb : Option Word16) (s : State) : exec (.unrecognized verb) s = .next s := rfl

/-- Settles O23: none of the eight changes the state, and the frames decode by their verbs' rows, those of VALUE_VERBS
with the value that their digits spell. -/
theorem stubVerbsChangeNothing : Obligations.StubVerbsChangeNothing := by
  refine ⟨fun s v => ⟨exec_sf s, exec_yb v s, exec_zb s, exec_zt s, exec_za s, exec_sp v s, exec_yt v s, exec_db v s⟩,
    ?sf, ?zb, ?zt, ?za, fun v => ⟨?yb, ?sp, ?yt, ?db⟩⟩
  case sf | zb | zt | za => exact decode_frame_of_plain_verb rfl (by decide)
  case yb => exact decode_frame_of_value_verb (build := .yb) rfl (by decide) (by decide) v
  case sp => exact decode_frame_of_value_verb (build := .sp) rfl (by decide) (by decide) v
  case yt => exact decode_frame_of_value_verb (build := .yt) rfl (by decide) (by decide) v
  case db => exact decode_frame_of_value_verb (build := .db) rfl (by decide) (by decide) v

/-- Settles O24: both kinds of buffer decode to the fallback row, which does nothing whatever its verb. -/
theorem unrecognizedVerbIsIgnored : Obligations.UnrecognizedVerbIsIgnored := by
  refine ⟨fun c s b0 b1 rest noRow => ?noRow, fun c s buf short => ?noVerb, fun s verb => exec_unrecognized verb s⟩
  case noRow => rw [decodeBuffer_of_no_row noRow, exec_unrecognized]
  case noVerb => rw [decodeBuffer_of_length_lt_two short, exec_unrecognized]

end Sys2Proof.Machine
end

section
/-! The two senders that drop (42_channel.md R212, R216): C0's Sending step by whether `chan` is empty and whether the
attempt is the last one, and C1's intermediate report by whether `fb` is empty. -/

namespace Sys2Proof.Machine

/-! ## The Sending step -/

theorem c0Step_of_sending {s : State} (sending : s.c0.phase = .sending) : c0Step s = .next (sendingStep s) := by
  rw [c0Step, sending]

/-- Into an empty `chan` the pending word is put and C0 is done with it (42_channel.md R211). -/
theorem sendingStep_of_chan_empty {s : State} {w : Word32} (pending : s.c0.pendingSend = some w)
    (empty : s.chan = none) : sendingStep s = sendDone { s with chan := some w } := by
  simp only [sendingStep, pending, empty, slotTryPut_none]

/-- A full `chan` keeps its word: the step is a failed attempt and nothing else (42_channel.md R212). -/
theorem sendingStep_of_chan_full {s : State} {w h : Word32} (pending : s.c0.pendingSend = some w)
    (full : s.chan = some h) : sendingStep s = sendFailed w s := by
  simp only [sendingStep, pending, full, slotTryPut_some]

theorem sendFailed_of_not_last {s : State} (notLast : s.c0.sendAttempts + 1 ≠ s.cfg.sendRetryLimit) (w : Word32) :
    sendFailed w s = { s with c0 := { s.c0 with sendAttempts := s.c0.sendAttempts + 1 } } :=
  if_neg notLast

theorem sendFailed_of_last {s : State} (last : s.c0.sendAttempts + 1 = s.cfg.sendRetryLimit) (w : Word32) :
    sendFailed w s = sendDone (logDrop (.droppedRequest w) s) :=
  if_pos last

/-- Settles O26: the Sending step by whether `chan` is empty and, when it is full, by whether the attempt is the last. -/
theorem sendingPutsCountsOrDrops : Obligations.SendingPutsCountsOrDrops := by
  intro s w sending pending
  rw [c0Step_of_sending sending]
  refine ⟨fun empty => ?put, fun h full notLast => ?count, fun h full last => ?drop⟩
  case put => rw [sendingStep_of_chan_empty pending empty, sendDone]
  case count => rw [sendingStep_of_chan_full pending full, sendFailed_of_not_last notLast]
  case drop => rw [sendingStep_of_chan_full pending full, sendFailed_of_last last, sendDone, logDrop]

/-! ## The intermediate report -/

theorem reportIntermediate_of_fb_empty {s : State} (empty : s.fb = none) :
    reportIntermediate s = { s with fb := some (fbWord s) } := by
  rw [reportIntermediate_eq, empty]

/-- A full `fb` keeps its word: the report is logged as dropped and nothing else (42_channel.md R216). -/
theorem reportIntermediate_of_fb_full {s : State} {h : Word32} (full : s.fb = some h) :
    reportIntermediate s = logDrop (.droppedReport (fbWord s)) s := by
  rw [reportIntermediate_eq, full]

/-- Settles O30: the report by whether `fb` is empty. -/
theorem intermediateReportPutsOrDrops : Obligations.IntermediateReportPutsOrDrops := by
  refine fun s => ⟨fun empty => ?put, fun h full => ?drop⟩
  case put => exact reportIntermediate_of_fb_empty empty
  case drop => rw [reportIntermediate_of_fb_full full, logDrop]

end Sys2Proof.Machine
end

section
/-! The Motion step (44_stepping.md R274): its three outcomes by the engine's mode and by whether the position is the
target's, and the end of a motion (R278) as one record update. -/

namespace Sys2Proof.Machine

theorem c1Step_of_motion {s : State} (motion : s.c1.phase = .motion) : c1Step s = .next (motionStep s) := by
  rw [c1Step, motion]

/-- The end of a motion as one record update: the engine idle, the final report pending, Cooldown armed
(44_stepping.md R278). -/
theorem reachTarget_eq (s : State) :
    reachTarget s = { s with
      motor := { s.motor with mode := .idle }
      c1 := { s.c1 with
        phase := .finalReport
        pendingFinal := encodeReport s.motor.targetPosition s.motor.currentPosition }
      alarms := insertAlarm { kind := .cooldown, delayMs := s.cfg.cooldownMs } s.alarms } := rfl

/-! ## The three outcomes -/

theorem motionStep_of_not_stepping {s : State} (notStepping : s.motor.mode ≠ .stepping) :
    motionStep s = { s with c1 := { s.c1 with phase := .override } } :=
  if_neg notStepping

theorem motionStep_of_at_target {s : State} (stepping : s.motor.mode = .stepping)
    (atTarget : s.motor.currentPosition = s.motor.targetPosition) :
    motionStep s = reachTarget { s with c1 := { s.c1 with batchCount := 0 } } :=
  (if_pos stepping).trans (if_pos atTarget)

theorem motionStep_of_away_from_target {s : State} (stepping : s.motor.mode = .stepping)
    (away : s.motor.currentPosition ≠ s.motor.targetPosition) :
    motionStep s = { s with c1 := { s.c1 with phase := .pulsing, batchCount := 0 } } :=
  (if_pos stepping).trans (if_neg away)

/-- Settles O36: the Motion step by the engine's mode and, while it is Stepping, by whether the target is reached. -/
theorem motionStepOpensOrEndsABatch : Obligations.MotionStepOpensOrEndsABatch := by
  intro s motion
  rw [c1Step_of_motion motion]
  refine ⟨fun notStepping => ?goesOn, fun stepping atTarget => ?endsMotion, fun stepping away => ?opensBatch⟩
  case goesOn => rw [motionStep_of_not_stepping notStepping]
  case endsMotion => rw [motionStep_of_at_target stepping atTarget, reachTarget_eq]
  case opensBatch => rw [motionStep_of_away_from_target stepping away]

end Sys2Proof.Machine
end

section
/-! The Override step (45_manual_override.md R300): what the two buttons start, and the step as a Target request, or
nothing, followed by the settle hold. -/

namespace Sys2Proof.Machine

theorem exec_target (v : Position) (s : State) : exec (.target v) s = .next (startMotion v s) := rfl

/-! ## What the buttons start -/

theorem overrideMotion_increase (s : State) :
    overrideMotion true false s = startMotion (s.motor.currentPosition + s.cfg.overrideStep) s := rfl

theorem overrideMotion_decrease {s : State} (room : s.cfg.overrideStep.toNat ≤ s.motor.currentPosition.toNat) :
    overrideMotion false true s = startMotion (s.motor.currentPosition - s.cfg.overrideStep) s :=
  if_pos room

theorem overrideMotion_decrease_of_below {s : State}
    (below : s.motor.currentPosition.toNat < s.cfg.overrideStep.toNat) : overrideMotion false true s = s :=
  if_neg (Nat.not_le.mpr below)

/-- Neither button or both: no action is taken. -/
theorem overrideMotion_same (b : Bool) (s : State) : overrideMotion b b s = s := by
  cases b <;> rfl

/-! ## The step around it -/

/-- C1 at Override: what the buttons start, then the settle hold, then on to Imaging. -/
theorem c1Step_of_override {s : State} (override : s.c1.phase = .override) :
    c1Step s = .next
      { hold (s.cfg.settleMs * 1000) (overrideMotion s.env.turn.btnInc s.env.turn.btnDec s) with
        c1 := { (overrideMotion s.env.turn.btnInc s.env.turn.btnDec s).c1 with phase := .imaging } } := by
  rw [c1Step, override]
  rfl

/-- An Override step that starts a motion is the Target request for it, then the settle hold. -/
theorem c1Step_of_override_starts {s : State} {v : Position} (override : s.c1.phase = .override)
    (starts : overrideMotion s.env.turn.btnInc s.env.turn.btnDec s = startMotion v s) :
    c1Step s = thenDo (exec (.target v) s) (fun t =>
      { t with pinTrace := t.pinTrace ++ [.hold (s.cfg.settleMs * 1000)], c1 := { t.c1 with phase := .imaging } }) := by
  rw [c1Step_of_override override, starts, exec_target, thenDo_next, hold]

/-- An Override step that starts nothing is the settle hold alone. -/
theorem c1Step_of_override_rests {s : State} (override : s.c1.phase = .override)
    (rests : overrideMotion s.env.turn.btnInc s.env.turn.btnDec s = s) :
    c1Step s = .next
      { s with pinTrace := s.pinTrace ++ [.hold (s.cfg.settleMs * 1000)], c1 := { s.c1 with phase := .imaging } } := by
  rw [c1Step_of_override override, rests, hold]

/-- Settles O41: the Override step by the two buttons and, for a decrease, by the room below the position. -/
theorem overrideArbitratesTheButtons : Obligations.OverrideArbitratesTheButtons := by
  intro s override
  refine ⟨fun inc dec => ⟨s.motor.currentPosition + s.cfg.overrideStep, BitVec.toNat_add .., ?up⟩,
    fun inc dec room => ⟨s.motor.currentPosition - s.cfg.overrideStep, ?noWrap, ?down⟩, fun noTarget => ?rests⟩
  case up =>
    exact c1Step_of_override_starts override (by rw [inc, dec, overrideMotion_increase])
  case noWrap =>
    rw [BitVec.toNat_sub_of_le (BitVec.le_def.mpr room), Nat.sub_add_cancel room]
  case down =>
    exact c1Step_of_override_starts override (by rw [inc, dec, overrideMotion_decrease room])
  case rests =>
    apply c1Step_of_override_rests override
    obtain same | ⟨inc, below⟩ := noTarget
    · rw [same, overrideMotion_same]
    · rw [inc]
      cases s.env.turn.btnDec with
      | false => exact overrideMotion_same false s
      | true => exact overrideMotion_decrease_of_below below

end Sys2Proof.Machine
end

section
/-! The click waveform (46_intervalometer.md R326): the events of a pulse, a burst and a click, the operations that emit
them, and how many events and how much time a click takes. -/

namespace Sys2Proof.Machine

/-! ## The events of a click -/

/-- IR high and low, each held for the pulse width. -/
def pulseEvents (us : Nat) : List PinEvent := [.pin .ir true, .hold us, .pin .ir false, .hold us]

def burstEvents (us pulses : Nat) : List PinEvent := (List.replicate pulses (pulseEvents us)).flatten

/-- The bursts with the gap between consecutive ones. -/
def clickEvents (pulses us gapUs bursts : Nat) : List PinEvent :=
  ((List.replicate bursts (burstEvents us pulses)).intersperse [.hold gapUs]).flatten

theorem burstEvents_succ (us n : Nat) : burstEvents us (n + 1) = pulseEvents us ++ burstEvents us n := rfl

theorem clickEvents_one (pulses us gapUs : Nat) : clickEvents pulses us gapUs 1 = burstEvents us pulses :=
  List.append_nil _

theorem clickEvents_add_two (pulses us gapUs n : Nat) :
    clickEvents pulses us gapUs (n + 2) =
      burstEvents us pulses ++ (.hold gapUs :: clickEvents pulses us gapUs (n + 1)) := rfl

/-! ## The state after them -/

/-- The state once events on the IR pin that end with it low are traced. -/
def afterIr (events : List PinEvent) (s : State) : State :=
  { s with pins := { s.pins with ir := false }, pinTrace := s.pinTrace ++ events }

theorem afterIr_afterIr (a b : List PinEvent) (s : State) : afterIr b (afterIr a s) = afterIr (a ++ b) s := by
  simp [afterIr]

theorem hold_afterIr (us : Nat) (a : List PinEvent) (s : State) :
    hold us (afterIr a s) = afterIr (a ++ [.hold us]) s := by
  simp [hold, afterIr]

theorem irPulse_eq (us : Nat) (s : State) : irPulse us s = afterIr (pulseEvents us) s := by
  simp [irPulse, hold, setPin, pinsWith, afterIr, pulseEvents]

/-- A burst of at least one pulse; a burst of none would leave IR as it was. -/
theorem irBurst_succ (us n : Nat) (s : State) : irBurst us (n + 1) s = afterIr (burstEvents us (n + 1)) s := by
  induction n generalizing s with
  | zero => exact irPulse_eq us s
  | succ n ih => rw [irBurst, ih, irPulse_eq, afterIr_afterIr, ← burstEvents_succ]

/-- The gap comes with each further burst, so that none follows the last. -/
theorem irBursts_succ (pulses us gapUs n : Nat) (s : State) :
    irBursts (pulses + 1) us gapUs (n + 1) s = afterIr (clickEvents (pulses + 1) us gapUs (n + 1)) s := by
  induction n generalizing s with
  | zero => rw [irBursts, irBurst_succ, clickEvents_one]
  | succ n ih =>
    rw [irBursts, ih, irBurst_succ, hold_afterIr, afterIr_afterIr, clickEvents_add_two, List.append_assoc,
      List.singleton_append]

theorem fireClick_eq {s : State} (bursts : 1 ≤ s.cfg.irBursts) (pulses : 1 ≤ s.cfg.irPulses) :
    fireClick s = afterIr (clickEvents s.cfg.irPulses s.cfg.irPulseUs s.cfg.irGapUs s.cfg.irBursts) s := by
  obtain ⟨n, hn⟩ := Nat.exists_eq_add_of_le' bursts
  obtain ⟨p, hp⟩ := Nat.exists_eq_add_of_le' pulses
  rw [fireClick, hn, hp, irBursts_succ]

/-! ## How many events, and how long -/

theorem holdSum_append (a b : List PinEvent) : holdSum (a ++ b) = holdSum a + holdSum b := by
  simp [holdSum]

theorem holdSum_hold_cons (us : Nat) (a : List PinEvent) : holdSum (.hold us :: a) = us + holdSum a := by
  simp [holdSum]

theorem length_burstEvents (us n : Nat) : (burstEvents us n).length = n * 4 := by
  simp [burstEvents, pulseEvents]

theorem holdSum_burstEvents (us n : Nat) : holdSum (burstEvents us n) = n * (2 * us) := by
  induction n with
  | zero => exact (Nat.zero_mul _).symm
  | succ n ih =>
    have pulse : holdSum (pulseEvents us) = 2 * us := by simp [pulseEvents, holdSum, Nat.two_mul]
    rw [burstEvents_succ, holdSum_append, ih, pulse]
    ring

theorem length_clickEvents (pulses us gapUs n : Nat) :
    (clickEvents pulses us gapUs (n + 1)).length = (n + 1) * (pulses * 4) + n := by
  induction n with
  | zero => rw [clickEvents_one, length_burstEvents, Nat.zero_add, Nat.one_mul, Nat.add_zero]
  | succ n ih =>
    rw [clickEvents_add_two, List.length_append, List.length_cons, ih, length_burstEvents]
    ring

theorem holdSum_clickEvents (pulses us gapUs n : Nat) :
    holdSum (clickEvents pulses us gapUs (n + 1)) = (n + 1) * (pulses * (2 * us)) + n * gapUs := by
  induction n with
  | zero => rw [clickEvents_one, holdSum_burstEvents, Nat.zero_add, Nat.one_mul, Nat.zero_mul, Nat.add_zero]
  | succ n ih =>
    rw [clickEvents_add_two, holdSum_append, holdSum_hold_cons, ih, holdSum_burstEvents]
    ring

/-- Settles O42: the click for every number of bursts and pulses from one up, then the nominal click's length and
duration from the closed forms. -/
theorem clickWaveform : Obligations.ClickWaveform := by
  refine ⟨fun s bursts pulses => fireClick_eq bursts pulses, fun s bursts pulses us gap => ?nominal⟩
  case nominal =>
    have click : (fireClick s).pinTrace = s.pinTrace ++ clickEvents 16 15 7300 2 := by
      rw [fireClick_eq (by omega) (by omega), pulses, us, gap, bursts, afterIr]
    rw [click, List.length_append, holdSum_append, length_clickEvents, holdSum_clickEvents]
    exact ⟨rfl, rfl⟩

end Sys2Proof.Machine
end

section
/-! The encodings (30_encoding.md): which instruction a kept buffer and a channel word decode to, and that decoding what
the encoder spells gives the instruction back. -/

namespace Sys2Proof.Machine

/-! ## Verbs and their two characters -/

theorem verb16_toNat (b0 b1 : Byte) : (verb16 b0 b1).toNat = b0.toNat * 256 + b1.toNat := by
  have h0 := b0.isLt
  have h1 := b1.isLt
  rw [verb16, BitVec.toNat_ofNat, Nat.mod_eq_of_lt (by omega)]

/-- The two bytes that a frame spells a verb with make up the verb (30_encoding.md R92). -/
theorem verb16_extract (verb : Word16) : verb16 (verb.extractLsb' 8 8) (verb.extractLsb' 0 8) = verb := by
  apply BitVec.eq_of_toNat_eq
  have bound := verb.isLt
  simp only [verb16_toNat, BitVec.extractLsb'_toNat, Nat.shiftRight_eq_div_pow]
  omega

/-- What a verb's value is in the instruction's 16 bits (30_encoding.md R93, R94). -/
theorem parse_value_setWidth (c : Config) (b0 b1 : Byte) (rest : List Byte) :
    (parse c (b0 :: b1 :: rest)).value.setWidth 16 =
      if verb16 b0 b1 ∈ c.valueVerbs then BitVec.ofNat 16 (hexValue (rest.take c.payloadDigits)) else 0 := by
  split
  · rename_i valued
    rw [parse_value_of_mem valued, BitVec.setWidth_ofNat_of_le (by decide)]
  · rename_i plain
    rw [parse, if_neg (by simpa using plain)]
    rfl

/-! ## The frame of an instruction decodes to it -/

/-- A frame of a kept verb and a payload of data characters that fits into BUF_CAP. -/
theorem decode_frameOf {c : Config} {verb : Word16} {payload : List Byte} (kept : verbIsKept verb = true)
    (data : ∀ ch ∈ payload, isDataChar ch = true) (fits : payload.length + 2 ≤ c.bufCap) :
    decode c (frameOf verb payload) =
      .ok (decodeBuffer c (verb.extractLsb' 8 8 :: verb.extractLsb' 0 8 :: payload)) := by
  obtain ⟨hi, lo⟩ := (Bool.and_eq_true _ _).mp kept
  exact decode_frame_of_data (body := verb.extractLsb' 8 8 :: verb.extractLsb' 0 8 :: payload)
    (List.forall_mem_cons.2 ⟨hi, List.forall_mem_cons.2 ⟨lo, data⟩⟩) fits

/-- The frame of a verb of the dispatch table, whatever its row makes of the frame's value. -/
theorem decode_frameOf_row {c : Config} {verb : Word16} {payload : List Byte} {build : Word16 → Instr}
    (row : verbTable.lookup verb = some build) (kept : verbIsKept verb = true)
    (data : ∀ ch ∈ payload, isDataChar ch = true) (fits : payload.length + 2 ≤ c.bufCap) :
    decode c (frameOf verb payload) =
      .ok (build (if verb ∈ c.valueVerbs then BitVec.ofNat 16 (hexValue (payload.take c.payloadDigits)) else 0)) := by
  rw [decode_frameOf kept data fits, decodeBuffer_of_row (by rwa [verb16_extract]), parse_value_setWidth,
    verb16_extract]

theorem decode_frameOf_plain {c : Config} {verb : Word16} {i : Instr} (room : 6 ≤ c.bufCap)
    (row : verbTable.lookup verb = some fun _ => i) (kept : verbIsKept verb = true) :
    decode c (frameOf verb []) = .ok i :=
  decode_frameOf_row row kept (by simp) (by simp only [List.length_nil]; omega)

/-- The four digits of a value are read back in full where PAYLOAD_DIGITS leaves room for them. -/
theorem decode_frameOf_value {c : Config} {verb : Word16} {build : Word16 → Instr} (room : 6 ≤ c.bufCap)
    (digits : 4 ≤ c.payloadDigits) (stated : ∀ verb ∈ statedValueVerbs, verb ∈ c.valueVerbs)
    (row : verbTable.lookup verb = some build) (kept : verbIsKept verb = true) (valued : verb ∈ statedValueVerbs)
    (v : Word16) : decode c (frameOf verb (hexDigits4 v)) = .ok (build v) := by
  rw [decode_frameOf_row row kept (fun _ => isDataChar_of_mem_hexDigits4) (by simpa using room),
    if_pos (stated verb valued), List.take_of_length_le (by simpa using digits), hexValue_hexDigits4, BitVec.ofNat_toNat,
    BitVec.setWidth_eq]

theorem decode_frameOf_no_row {c : Config} {verb : Word16} (room : 6 ≤ c.bufCap) (kept : verbIsKept verb = true)
    (noRow : verb ∉ rowVerbs) : decode c (frameOf verb []) = .ok (.unrecognized (some verb)) := by
  rw [decode_frameOf kept (by simp) (by simp only [List.length_nil]; omega),
    decodeBuffer_of_no_row (by rwa [verb16_extract]), verb16_extract]

theorem decode_empty_frame (c : Config) : decode c (.frame [0x3A, 0x23]) = .ok (.unrecognized none) := by
  rw [← decodeBuffer_of_length_lt_two (buf := []) (by decide) c]
  exact decode_frame_of_data (body := []) (by simp) (Nat.zero_le _)

/-! ## The channel word of a request decodes to it -/

/-- KIND as a number: bits 17:16 of the word (30_encoding.md R97, R98). -/
theorem kind_eq_iff (w : Word32) (kind : BitVec 2) :
    w.extractLsb' 16 2 = kind ↔ w.toNat / 65536 % 4 = kind.toNat := by
  rw [← BitVec.toNat_inj, BitVec.extractLsb'_toNat, Nat.shiftRight_eq_div_pow]

theorem decodeRequest_of_kind_zero {w : Word32} (kind : w.toNat / 65536 % 4 = 0) :
    decodeRequest w = .target (BitVec.ofNat 16 w.toNat) := by
  have isTarget : w.extractLsb' 16 2 = 0 := (kind_eq_iff w 0).2 kind
  have value : w.extractLsb' 0 16 = BitVec.ofNat 16 w.toNat := by
    apply BitVec.eq_of_toNat_eq
    rw [BitVec.extractLsb'_toNat, BitVec.toNat_ofNat, Nat.shiftRight_zero]
  rw [decodeRequest, if_pos isTarget, value]

theorem decodeRequest_of_kind_one {w : Word32} (kind : w.toNat / 65536 % 4 = 1) : decodeRequest w = .stop := by
  have isStop : w.extractLsb' 16 2 = 1 := (kind_eq_iff w 1).2 kind
  rw [decodeRequest, isStop]
  rfl

theorem decodeRequest_of_kind_two {w : Word32} (kind : w.toNat / 65536 % 4 = 2) : decodeRequest w = .go := by
  have isGo : w.extractLsb' 16 2 = 2 := (kind_eq_iff w 2).2 kind
  rw [decodeRequest, isGo]
  rfl

theorem decodeRequest_of_kind_three {w : Word32} (kind : w.toNat / 65536 % 4 = 3) :
    decodeRequest w = .recalibrate := by
  have isRecalibrate : w.extractLsb' 16 2 = 3 := (kind_eq_iff w 3).2 kind
  rw [decodeRequest, isRecalibrate]
  rfl

/-- A request survives its way through `chan` (30_encoding.md R97, R98). -/
@[simp] theorem decodeRequest_encodeRequest (r : MotionRequest) : decodeRequest (encodeRequest r) = r := by
  cases r with
  | target v =>
    have bound := v.isLt
    rw [decodeRequest_of_kind_zero (by rw [encodeRequest_target_toNat]; omega), encodeRequest_target_toNat,
      BitVec.ofNat_toNat, BitVec.setWidth_eq]
  | stop => rfl
  | go => rfl
  | recalibrate => rfl

theorem decode_word_encodeRequest (c : Config) (r : MotionRequest) :
    decode c (.word (encodeRequest r)) = .ok (Instr.ofRequest r) := by
  rw [decode, decodeChannelWord, decodeRequest_encodeRequest]

/-! ## The obligations -/

/-- Settles O1: by the instruction's kind, a verb with a row and no value, one with four digits, a verb of no row, no
verb, or a channel request. -/
theorem decodeOfEncode : Obligations.DecodeOfEncode := by
  intro c i room digits stated wellFormed
  cases i with
  | fq | fg | gh | gc | gi | gn | gp | gt | gv | gd | sf | sh | zb | zt | za =>
    exact decode_frameOf_plain room rfl (by decide)
  | sd v | sn v | yb v | sp v | yt v | db v =>
    exact decode_frameOf_value room digits stated rfl (by decide) (by decide) v
  | unrecognized verb =>
    cases verb with
    | none => exact decode_empty_frame c
    | some verb =>
      obtain ⟨kept, noRow⟩ := (Bool.and_eq_true _ _).mp wellFormed
      exact decode_frameOf_no_row room kept (by simpa [verbHasNoRow] using noRow)
  | target v => exact decode_word_encodeRequest c (.target v)
  | stop => exact decode_word_encodeRequest c .stop
  | go => exact decode_word_encodeRequest c .go
  | recalibrate => exact decode_word_encodeRequest c .recalibrate

/-- Settles O2: each word by its row of the dispatch table or its KIND. -/
theorem sampleWordsDecode : Obligations.SampleWordsDecode :=
  ⟨rfl, rfl, rfl, rfl, rfl, rfl, rfl, rfl⟩

/-- Settles O4: the four values of KIND. -/
theorem channelWordDecodesByKind : Obligations.ChannelWordDecodesByKind := by
  intro w
  refine ⟨fun kind => ?target, fun kind => ?stop, fun kind => ?go, fun kind => ?recalibrate⟩
  case target => rw [decodeChannelWord, decodeRequest_of_kind_zero kind, Instr.ofRequest]
  case stop => rw [decodeChannelWord, decodeRequest_of_kind_one kind, Instr.ofRequest]
  case go => rw [decodeChannelWord, decodeRequest_of_kind_two kind, Instr.ofRequest]
  case recalibrate => rw [decodeChannelWord, decodeRequest_of_kind_three kind, Instr.ofRequest]

/-- Settles O6: the verb's row by lookup in the dispatch table, then what the row makes of the value. -/
theorem verbsDecodeByTwoCharacters : Obligations.VerbsDecodeByTwoCharacters := by
  intro c
  refine ⟨fun rest => ?plain, ?valued, fun b0 b1 rest noRow => decodeBuffer_of_no_row noRow c rest,
    fun buf short => decodeBuffer_of_length_lt_two short c, rfl, rfl⟩
  case plain =>
    have row {b0 b1 : Byte} {i : Instr} (h : verbTable.lookup (verb16 b0 b1) = some fun _ => i) :
        decodeBuffer c (b0 :: b1 :: rest) = i := decodeBuffer_of_row h c rest
    exact ⟨row rfl, row rfl, row rfl, row rfl, row rfl, row rfl, row rfl, row rfl, row rfl, row rfl, row rfl, row rfl,
      row rfl, row rfl, row rfl⟩
  case valued =>
    rintro b0 b1 rest v rfl
    rw [← parse_value_setWidth]
    refine ⟨?sd, ?sn, ?yb, ?sp, ?yt, ?db⟩
    all_goals rintro rfl rfl
    all_goals exact decodeBuffer_of_row rfl c rest

end Sys2Proof.Machine
end

section
/-! Hex values and response forms (40_codec.md sections 3 and 4): HexValue on digits and on anything else, the Command
record that Parse builds with it, and the digits of a response read back. -/

namespace Sys2Proof.Machine

/-! ## HexValue -/

theorem hexDigitValue_eq_some_iff (c : Byte) (d : Nat) : hexDigitValue c = some d ↔
    (0x30 ≤ c.toNat ∧ c.toNat ≤ 0x39 ∧ d = c.toNat - 0x30) ∨
    (0x41 ≤ c.toNat ∧ c.toNat ≤ 0x46 ∧ d = c.toNat - 0x41 + 10) := by
  unfold hexDigitValue
  split_ifs with decimal letter
  all_goals
    simp only [codeBetween_iff] at *
    simp only [Option.some.injEq, false_iff]
    omega

theorem hexDigitValue_lt {c : Byte} {d : Nat} (digit : hexDigitValue c = some d) : d < 16 := by
  rcases (hexDigitValue_eq_some_iff c d).1 digit with h | h <;> omega

theorem hexValueFrom_cons_digit {c : Byte} {d : Nat} (digit : hexDigitValue c = some d) (n : Nat) (cs : List Byte) :
    hexValueFrom n (c :: cs) = hexValueFrom (n * 16 + d) cs := by
  rw [hexValueFrom, digit]

theorem hexValueFrom_cons_not_digit {c : Byte} (noDigit : hexDigitValue c = none) (n : Nat) (cs : List Byte) :
    hexValueFrom n (c :: cs) = 0 := by
  rw [hexValueFrom, noDigit]

/-- One character that is no digit makes the whole value 0, wherever it stands (40_codec.md R137). -/
theorem hexValueFrom_eq_zero {cs : List Byte} (noDigit : ∃ c ∈ cs, hexDigitValue c = none) (n : Nat) :
    hexValueFrom n cs = 0 := by
  induction cs generalizing n with
  | nil => simp at noDigit
  | cons c cs ih =>
    cases h : hexDigitValue c with
    | none => exact hexValueFrom_cons_not_digit h n cs
    | some d =>
      rw [hexValueFrom_cons_digit h]
      exact ih (by simpa [h] using noDigit) _

theorem hexValueFrom_append_digit {cs : List Byte} (digits : ∀ e ∈ cs, hexDigitValue e ≠ none) {c : Byte} {d : Nat}
    (digit : hexDigitValue c = some d) (n : Nat) : hexValueFrom n (cs ++ [c]) = hexValueFrom n cs * 16 + d := by
  induction cs generalizing n with
  | nil => exact hexValueFrom_cons_digit digit n []
  | cons e cs ih =>
    obtain ⟨he, hcs⟩ := List.forall_mem_cons.1 digits
    obtain ⟨x, hx⟩ := Option.ne_none_iff_exists'.1 he
    rw [List.cons_append, hexValueFrom_cons_digit hx, hexValueFrom_cons_digit hx, ih hcs]

/-- Each character makes the value at most sixteen times as large, and less than one more digit larger. -/
theorem hexValueFrom_lt (n : Nat) (cs : List Byte) : hexValueFrom n cs < (n + 1) * 16 ^ cs.length := by
  induction cs generalizing n with
  | nil => simp
  | cons c cs ih =>
    cases h : hexDigitValue c with
    | none =>
      rw [hexValueFrom_cons_not_digit h]
      positivity
    | some d =>
      have hd := hexDigitValue_lt h
      calc hexValueFrom n (c :: cs)
          = hexValueFrom (n * 16 + d) cs := hexValueFrom_cons_digit h n cs
        _ < (n * 16 + d + 1) * 16 ^ cs.length := ih _
        _ ≤ (n + 1) * 16 * 16 ^ cs.length := Nat.mul_le_mul_right _ (by omega)
        _ = (n + 1) * 16 ^ (c :: cs).length := by rw [List.length_cons, pow_succ]; ring

theorem hexValue_lt (cs : List Byte) : hexValue cs < 16 ^ cs.length := by
  simpa [hexValue] using hexValueFrom_lt 0 cs

/-- Settles O7: HexValue character by character, from the value so far. -/
theorem hexValueReadsDigits : Obligations.HexValueReadsDigits := by
  refine ⟨hexDigitValue_eq_some_iff, rfl, fun p noDigit => hexValueFrom_eq_zero noDigit 0,
    fun p c d digits digit => hexValueFrom_append_digit digits digit 0, fun p short => ?bound⟩
  case bound =>
    calc hexValue p ≤ 16 ^ p.length - 1 := Nat.le_sub_one_of_lt (hexValue_lt p)
      _ ≤ 16 ^ 4 - 1 := Nat.sub_le_sub_right (Nat.pow_le_pow_right (by decide) short) 1

/-! ## Parse -/

/-- A value of up to eight digits fits into the Command record's 32 bits (40_codec.md R136). -/
theorem parse_value_toNat {c : Config} {b0 b1 : Byte} (valued : verb16 b0 b1 ∈ c.valueVerbs)
    (fits : c.payloadDigits ≤ 8) (rest : List Byte) :
    (parse c (b0 :: b1 :: rest)).value.toNat = hexValue (rest.take c.payloadDigits) := by
  have bound : hexValue (rest.take c.payloadDigits) < 16 ^ 8 :=
    (hexValue_lt _).trans_le (Nat.pow_le_pow_right (by decide) ((List.length_take_le _ _).trans fits))
  rw [parse_value_of_mem valued, BitVec.toNat_ofNat, Nat.mod_eq_of_lt (bound.trans_eq (by decide))]

theorem parse_present_of_mem {c : Config} {b0 b1 : Byte} (valued : verb16 b0 b1 ∈ c.valueVerbs) (rest : List Byte) :
    (parse c (b0 :: b1 :: rest)).present = !rest.isEmpty := by
  rw [parse, if_pos (List.contains_iff_mem.2 valued)]

theorem parse_of_not_mem {c : Config} {b0 b1 : Byte} (plain : verb16 b0 b1 ∉ c.valueVerbs) (rest : List Byte) :
    parse c (b0 :: b1 :: rest) = { verb := some (verb16 b0 b1), value := 0, present := false } := by
  rw [parse, if_neg (by simpa using plain)]

theorem parse_of_length_lt_two {buf : List Byte} (short : buf.length < 2) (c : Config) :
    parse c buf = { verb := none, value := 0, present := false } := by
  match buf, short with
  | [], _ => rfl
  | [_], _ => rfl
  | _ :: _ :: rest, short => exact absurd short (by simp)

/-- Settles O8: by whether the buffer has a verb, and whether that is one of VALUE_VERBS. -/
theorem parseBuildsCommand : Obligations.ParseBuildsCommand := by
  refine ⟨fun c buf short => parse_of_length_lt_two short c,
    fun c b0 b1 rest => ⟨⟨_, parse_verb c b0 b1 rest, verb16_toNat b0 b1⟩, fun valued => ?valued, fun plain => ?plain⟩⟩
  case valued =>
    exact ⟨fun fits => parse_value_toNat valued fits rest, by rw [parse_present_of_mem valued]; simp⟩
  case plain => rw [parse_of_not_mem plain]; exact ⟨rfl, rfl⟩

/-! ## Response digits -/

/-- The two nibbles, most significant first, are the byte's base-16 expansion. -/
@[simp] theorem hexValue_hexDigits2 (v : BitVec 8) : hexValue (hexDigits2 v) = v.toNat := by
  have bound := v.isLt
  simp only [hexValue, hexDigits2, hexValueFrom_hexChar_cons, hexValueFrom_nil, BitVec.extractLsb'_toNat,
    Nat.shiftRight_eq_div_pow]
  omega

@[simp] theorem hexDigits2_length (v : BitVec 8) : (hexDigits2 v).length = 2 := rfl

theorem exists_hexChar_of_mem_hexDigits4 {v : Word16} {ch : Byte} (h : ch ∈ hexDigits4 v) :
    ∃ d : BitVec 4, ch = hexChar d := by
  simp only [hexDigits4, List.mem_cons, List.not_mem_nil, or_false] at h
  obtain rfl | rfl | rfl | rfl := h <;> exact ⟨_, rfl⟩

theorem exists_hexChar_of_mem_hexDigits2 {v : BitVec 8} {ch : Byte} (h : ch ∈ hexDigits2 v) :
    ∃ d : BitVec 4, ch = hexChar d := by
  simp only [hexDigits2, List.mem_cons, List.not_mem_nil, or_false] at h
  obtain rfl | rfl := h <;> exact ⟨_, rfl⟩

theorem fmtHex4_eq (v : Int) : fmtHex4 v = hexDigits4 (BitVec.ofInt 16 v) ++ [0x23] := rfl
theorem fmtHex2_eq (v : Int) : fmtHex2 v = hexDigits2 (BitVec.ofInt 8 v) ++ [0x23] := rfl

/-- A HEX4 response reads back as its value's low 16 bits, two's complement (40_codec.md R140). -/
theorem hexValue_hexDigits4_ofInt (v : Int) : (hexValue (hexDigits4 (BitVec.ofInt 16 v)) : Int) = v % 65536 := by
  rw [hexValue_hexDigits4, BitVec.toNat_ofInt]
  exact Int.toNat_of_nonneg (Int.emod_nonneg _ (by decide))

/-- A HEX2 response reads back as its value's low 8 bits (40_codec.md R139). -/
theorem hexValue_hexDigits2_ofInt (v : Int) : (hexValue (hexDigits2 (BitVec.ofInt 8 v)) : Int) = v % 256 := by
  rw [hexValue_hexDigits2, BitVec.toNat_ofInt]
  exact Int.toNat_of_nonneg (Int.emod_nonneg _ (by decide))

/-- The digits `0` to `9`, then `A` to `F` (40_codec.md R142). -/
theorem hexChar_toNat : ∀ d : BitVec 4,
    (hexChar d).toNat = if d.toNat < 10 then 0x30 + d.toNat else 0x41 + (d.toNat - 10) := by decide

/-- Settles O9: the two forms are digits and `#`, the digits read back as the value, and each is a nibble's. -/
theorem hexResponsesReadBack : Obligations.HexResponsesReadBack := by
  refine ⟨fun v => ⟨fmtHex4_eq v, fmtHex2_eq v⟩,
    fun v => ⟨hexValue_hexDigits4_ofInt v, hexValue_hexDigits2_ofInt v⟩,
    hexValue_hexDigits4, hexValue_hexDigits2, fun v => ⟨rfl, rfl⟩, hexChar_toNat, fun v ch h => ?digit⟩
  case digit =>
    simp only [fmtHex4_eq, fmtHex2_eq, List.mem_append, List.mem_singleton] at h
    obtain (digit | hash) | (digit | hash) := h
    · exact .inr (exists_hexChar_of_mem_hexDigits4 digit)
    · exact .inl hash
    · exact .inr (exists_hexChar_of_mem_hexDigits2 digit)
    · exact .inl hash

end Sys2Proof.Machine
end

section
/-! The codec (40_codec.md sections 1 and 2): what each class of character does to it, that its buffer stays within
BUF_CAP, what a frame dispatches, and the GetChar step around it. -/

namespace Sys2Proof.Machine

/-! ## One character -/

/-- `:` starts a frame from any codec state (40_codec.md R131). -/
@[simp] theorem codecFeed_frameStart (cap : Nat) (k : Codec) : codecFeed cap k 0x3A = (⟨[], true⟩, none) := rfl

/-- `#` in a frame completes it (40_codec.md R135). -/
theorem codecFeed_frameEnd_inside {k : Codec} (inside : k.inFrame = true) (cap : Nat) :
    codecFeed cap k 0x23 = (⟨[], false⟩, some k.rxBuf) :=
  if_pos inside

/-- `#` outside a frame leaves the codec as it is (40_codec.md R135). -/
theorem codecFeed_frameEnd_outside {k : Codec} (outside : k.inFrame = false) (cap : Nat) :
    codecFeed cap k 0x23 = (k, none) :=
  if_neg (by simp [outside])

/-- A data character in a frame is appended if there is room and dropped otherwise (40_codec.md R132). -/
theorem codecFeed_data_inside {ch : Byte} {k : Codec} (data : charClass ch = .data) (inside : k.inFrame = true)
    (cap : Nat) :
    codecFeed cap k ch = (⟨if k.rxBuf.length < cap then k.rxBuf ++ [ch] else k.rxBuf, true⟩, none) := by
  obtain ⟨buf, _⟩ := k
  obtain rfl : _ = true := inside
  simp only [codecFeed, data, Bool.true_and, decide_eq_true_eq]
  split <;> rfl

/-! ## Many characters -/

/-- What one character can make of the buffer: nothing, an empty one, or one longer by a data character. -/
theorem codecFeed_rxBuf_cases (cap : Nat) (k : Codec) (ch : Byte) :
    (codecFeed cap k ch).1.rxBuf = k.rxBuf ∨ (codecFeed cap k ch).1.rxBuf = [] ∨
    (isDataChar ch = true ∧ k.rxBuf.length < cap ∧ (codecFeed cap k ch).1.rxBuf = k.rxBuf ++ [ch]) := by
  cases charKind : charClass ch with
  | frameStart => rw [charClass_eq_frameStart_iff.1 charKind]; exact .inr (.inl rfl)
  | frameEnd =>
    rw [charClass_eq_frameEnd_iff.1 charKind]
    cases inFrame : k.inFrame with
    | false => rw [codecFeed_frameEnd_outside inFrame]; exact .inl rfl
    | true => rw [codecFeed_frameEnd_inside inFrame]; exact .inr (.inl rfl)
  | other => rw [codecFeed_other charKind]; exact .inl rfl
  | data =>
    cases inFrame : k.inFrame with
    | false => rw [codecFeed_data_outside charKind inFrame]; exact .inl rfl
    | true =>
      rw [codecFeed_data_inside charKind inFrame]
      dsimp only
      split
      · exact .inr (.inr ⟨charClass_eq_data_iff.1 charKind, by assumption, rfl⟩)
      · exact .inl rfl

/-- A buffer within BUF_CAP that holds data characters alone (10_state.md R33). -/
def bufferFits (cap : Nat) (buf : List Byte) : Prop := buf.length ≤ cap ∧ ∀ b ∈ buf, isDataChar b = true

theorem codecFeed_bufferFits {cap : Nat} {k : Codec} (fits : bufferFits cap k.rxBuf) (ch : Byte) :
    bufferFits cap (codecFeed cap k ch).1.rxBuf := by
  rcases codecFeed_rxBuf_cases cap k ch with same | empty | ⟨data, room, longer⟩
  · rwa [same]
  · rw [empty]; exact ⟨Nat.zero_le _, nofun⟩
  · rw [longer]
    refine ⟨by rw [List.length_append, List.length_singleton]; exact room, fun b hb => ?_⟩
    obtain hb | hb := List.mem_append.1 hb
    · exact fits.2 b hb
    · rwa [List.mem_singleton.1 hb]

/-- Settles O10: by induction on the stream, with the buffer's two bounds as the invariant. -/
theorem bufferNeverOverflows : Obligations.BufferNeverOverflows := by
  intro cap c chars bounded kept
  have fits : bufferFits cap c.rxBuf := ⟨bounded, kept⟩
  clear bounded kept
  change bufferFits cap _
  induction chars generalizing c with
  | nil => exact fits
  | cons ch chars ih => exact ih _ (codecFeed_bufferFits fits ch)

/-- Data characters in a frame, then `#`: the first ones that fit into BUF_CAP are kept (30_encoding.md R91). -/
theorem decodeStream_data_take {c : Config} {body : List Byte} (data : ∀ ch ∈ body, isDataChar ch = true)
    {buf : List Byte} (fits : buf.length ≤ c.bufCap) :
    decodeStream c ⟨buf, true⟩ (body ++ [0x23]) = [decodeBuffer c ((buf ++ body).take c.bufCap)] := by
  induction body generalizing buf with
  | nil => rw [List.append_nil, List.take_of_length_le fits]; rfl
  | cons ch body ih =>
    obtain ⟨hch, hbody⟩ := List.forall_mem_cons.1 data
    rw [List.cons_append, decodeStream, codecFeed_data_inside (charClass_eq_data_iff.2 hch) rfl]
    dsimp only
    split
    · rename_i room
      rw [ih hbody (by rw [List.length_append, List.length_singleton]; exact room), List.append_assoc,
        List.singleton_append]
    · rename_i full
      have atCap : buf.length = c.bufCap := by omega
      rw [ih hbody fits, List.take_left' atCap, List.take_left' atCap]

/-- Settles O11: `:` resets the codec, the characters of class OTHER drop out, and the first data characters are kept. -/
theorem frameKeepsFirstDataCharacters : Obligations.FrameKeepsFirstDataCharacters := by
  intro c k body noDelimiter
  have onlyData : (body ++ [0x23]).filter (charClass · ≠ CharClass.other) = body.filter isDataChar ++ [0x23] := by
    rw [List.filter_append]
    refine congrArg (· ++ [0x23]) (List.filter_congr fun ch hch => ?_)
    obtain ⟨h1, h2⟩ := noDelimiter ch hch
    simp only [ne_eq, charClass_eq_other_iff, h1, h2]
    simp
  calc decodeStream c k (0x3A :: (body ++ [0x23]))
      = decodeStream c ⟨[], true⟩ (body ++ [0x23]) := rfl
    _ = decodeStream c ⟨[], true⟩ (body.filter isDataChar ++ [0x23]) := by
        rw [← onlyData, decodeStream_filter_other]
    _ = [decodeBuffer c ((body.filter isDataChar).take c.bufCap)] :=
        decodeStream_data_take (fun _ h => (List.mem_filter.1 h).2) (Nat.zero_le _)

/-! ## The block and one character -/

/-- A character that completes no frame changes the codec alone. -/
theorem processChar_of_none {ch : Byte} {s : State} {k : Codec}
    (feed : codecFeed s.cfg.bufCap s.c0.codec ch = (k, none)) :
    processChar ch s = .next { s with c0 := { s.c0 with codec := k } } := by
  simp only [processChar, feed]

/-- A character that completes a frame runs the frame's instruction in the same step. -/
theorem processChar_of_some {ch : Byte} {s : State} {k : Codec} {buf : List Byte}
    (feed : codecFeed s.cfg.bufCap s.c0.codec ch = (k, some buf)) :
    processChar ch s = exec (decodeBuffer s.cfg buf) { s with c0 := { s.c0 with codec := k } } := by
  simp only [processChar, feed]

/-- Settles O13: each character by what the codec makes of it. -/
theorem frameCharactersDriveTheCodec : Obligations.FrameCharactersDriveTheCodec := by
  intro s
  refine ⟨?start, fun ch data inside => ?data, fun inside => ?endInside, fun outside => ?endOutside⟩
  case start => exact processChar_of_none (codecFeed_frameStart _ _)
  case data => exact processChar_of_none (codecFeed_data_inside data inside _)
  case endInside => exact processChar_of_some (codecFeed_frameEnd_inside inside _)
  case endOutside => exact processChar_of_codec_unchanged (codecFeed_frameEnd_outside outside _)

/-! ## The GetChar step -/

/-- A step of C0 at GetChar is its GetChar step and the next turn (00_scope.md R5). -/
theorem step_of_getChar {s : State} (noFault : s.faults = []) (c0 : s.env.turn.agent = .c0)
    (getChar : s.c0.phase = .getChar) : step s = thenDo (getCharStep s) advance := by
  simp only [step, blockStep, noFault, agentStep, c0, c0Step, getChar]

theorem getCharStep_of_none {s : State} (noChar : s.env.turn.char = none) :
    getCharStep s = .next (leaveGetChar s) := by
  simp only [getCharStep, nextChar, noChar]

theorem getCharStep_of_some {s : State} {ch : Byte} (char : s.env.turn.char = some ch) :
    getCharStep s = thenDo (processChar ch s) leaveGetChar := by
  simp only [getCharStep, nextChar, char]

theorem thenDo_thenDo (o : Host.Outcome State Fault Refusal) (f g : State → State) :
    thenDo (thenDo o f) g = thenDo o (g ∘ f) := by
  cases o <;> rfl

/-- The end of a GetChar step and of its turn as one record update (40_codec.md R130). -/
theorem advance_leaveGetChar (s : State) :
    advance (leaveGetChar s) = { s with
      env := nextEnv s.env
      c0 := { s.c0 with phase := if s.c0.pendingSend = none then .pollFeedback else .sending } } := by
  unfold leaveGetChar
  cases s.c0.pendingSend <;> rfl

/-- A GetChar step whose character, if any, completes no frame: the codec moves on and the loop goes on. -/
theorem step_of_getChar_codec {s : State} {k : Codec} (noFault : s.faults = []) (c0 : s.env.turn.agent = .c0)
    (getChar : s.c0.phase = .getChar)
    (feed : (s.env.turn.char = none ∧ k = s.c0.codec) ∨
      ∃ ch, s.env.turn.char = some ch ∧ codecFeed s.cfg.bufCap s.c0.codec ch = (k, none)) :
    step s = .next { s with
      env := nextEnv s.env
      c0 := { s.c0 with
        codec := k, phase := if s.c0.pendingSend = none then .pollFeedback else .sending } } := by
  rw [step_of_getChar noFault c0 getChar]
  obtain ⟨noChar, rfl⟩ | ⟨ch, char, feed⟩ := feed
  · rw [getCharStep_of_none noChar, thenDo_next, advance_leaveGetChar]
  · rw [getCharStep_of_some char, processChar_of_none feed, thenDo_next, thenDo_next, advance_leaveGetChar]

/-- Settles O14: the `#` that completes a frame, then every other character by what the codec makes of it. -/
theorem stepRunsTheFramesVerb : Obligations.StepRunsTheFramesVerb := by
  intro s noFault c0 getChar
  refine ⟨?frame, fun k noFrame => step_of_getChar_codec noFault c0 getChar ?codec⟩
  case frame =>
    rintro i inside char rfl
    rw [step_of_getChar noFault c0 getChar, getCharStep_of_some char,
      processChar_of_some (codecFeed_frameEnd_inside inside _), thenDo_thenDo]
    exact congrArg _ (funext advance_leaveGetChar)
  case codec =>
    obtain ⟨char, rfl⟩ | ⟨char, outside, rfl⟩ | ⟨char, rfl⟩ | ⟨ch, char, other, rfl⟩ | ⟨ch, char, data, outside, rfl⟩ |
      ⟨ch, char, data, inside, rfl⟩ := noFrame
    · exact .inl ⟨char, rfl⟩
    · exact .inr ⟨_, char, codecFeed_frameEnd_outside outside _⟩
    · exact .inr ⟨_, char, codecFeed_frameStart _ _⟩
    · exact .inr ⟨_, char, codecFeed_other other _ _⟩
    · exact .inr ⟨_, char, codecFeed_data_outside data outside _⟩
    · exact .inr ⟨_, char, codecFeed_data_inside data inside _⟩

end Sys2Proof.Machine
end

section
/-! Host commands (41_host_commands.md sections 2 to 4): the motion verbs that record a request, the queries that answer
a register or the temperature, and SD. -/

namespace Sys2Proof.Machine

/-! ## Verbs that write C0's registers -/

/-- Recording a request is one record update (42_channel.md R210). -/
theorem send_eq (r : MotionRequest) (s : State) :
    send r s = { s with c0 := { s.c0 with pendingSend := some (encodeRequest r), sendAttempts := 0 } } := rfl

theorem exec_fq (s : State) : exec .fq s = .next (send .stop s) := rfl
theorem exec_fg (s : State) : exec .fg s = .next (send .go s) := rfl
theorem exec_sh (s : State) : exec .sh s = .next (send .recalibrate s) := rfl
theorem exec_sn (v : Word16) (s : State) :
    exec (.sn v) s = .next (send (.target v) { s with c0 := { s.c0 with hostTarget := v } }) := rfl
theorem exec_sd (v : Word16) (s : State) :
    exec (.sd v) s = .next { s with c0 := { s.c0 with legacyDelay := v.extractLsb' 0 8 } } := rfl

/-- Settles O20: each verb is the send of its request, whose word is its KIND alone. -/
theorem motionVerbsRecordTheirRequest : Obligations.MotionVerbsRecordTheirRequest :=
  fun s => ⟨exec_fq s, exec_fg s, exec_sh s⟩

/-- Settles O21: the send of a Target, whose word is its position. -/
theorem newTargetIsRecorded : Obligations.NewTargetIsRecorded :=
  fun s v => exec_sn v s

/-- Settles O22: the low 8 bits of the value. -/
theorem delayFieldIsStored : Obligations.DelayFieldIsStored := by
  refine fun s v => ⟨v.extractLsb' 0 8, ?lowBits, exec_sd v s⟩
  case lowBits => rw [BitVec.extractLsb'_toNat, Nat.shiftRight_zero]

/-! ## Queries of C0's registers -/

theorem exec_gi (s : State) : exec .gi s =
    .next (emit (fmtText (if s.c0.hostTarget ≠ s.c0.hostPosition then text01 else text00)) s) := rfl
theorem exec_gn (s : State) : exec .gn s = .next (emit (fmtHex4 s.c0.hostTarget.toNat) s) := rfl
theorem exec_gp (s : State) : exec .gp s = .next (emit (fmtHex4 s.c0.hostPosition.toNat) s) := rfl
theorem exec_gd (s : State) : exec .gd s = .next (emit (fmtHex2 s.c0.legacyDelay.toNat) s) := rfl
theorem exec_gt (s : State) : exec .gt s =
    .next (emit (fmtHex4 (temperature s.cfg.temp (readAdc s.cfg.tempAdcChannel s))) s) := rfl

/-- Settles O17: GI by whether C0's copies of target and position differ. -/
theorem movingStatusAnswer : Obligations.MovingStatusAnswer := by
  refine fun s => ⟨fun differ => ?moving, fun same => ?rest⟩
  case moving => rw [exec_gi, if_pos differ, emit_eq]; rfl
  case rest => rw [exec_gi, if_neg (not_not.2 same), emit_eq]; rfl

theorem hexDigitValue_ne_none_of_mem_hexDigits4 {v : Word16} : ∀ d ∈ hexDigits4 v, hexDigitValue d ≠ none := by
  intro d hd
  obtain ⟨n, rfl⟩ := exists_hexChar_of_mem_hexDigits4 hd
  simp

theorem hexDigitValue_ne_none_of_mem_hexDigits2 {v : BitVec 8} : ∀ d ∈ hexDigits2 v, hexDigitValue d ≠ none := by
  intro d hd
  obtain ⟨n, rfl⟩ := exists_hexChar_of_mem_hexDigits2 hd
  simp

/-- A HEX4 answer is digits and `#` at the end of the output (40_codec.md R140). -/
theorem emit_fmtHex4 (v : Int) (s : State) :
    emit (fmtHex4 v) s = { s with hostOut := s.hostOut ++ hexDigits4 (BitVec.ofInt 16 v) ++ [0x23] } := by
  rw [emit_eq, fmtHex4_eq, List.append_assoc]

/-- A HEX2 answer is digits and `#` at the end of the output (40_codec.md R139). -/
theorem emit_fmtHex2 (v : Int) (s : State) :
    emit (fmtHex2 v) s = { s with hostOut := s.hostOut ++ hexDigits2 (BitVec.ofInt 8 v) ++ [0x23] } := by
  rw [emit_eq, fmtHex2_eq, List.append_assoc]

theorem hexValue_hexDigits4_natCast (v : Word16) : hexValue (hexDigits4 (BitVec.ofInt 16 v.toNat)) = v.toNat := by
  rw [hexValue_hexDigits4, BitVec.ofInt_natCast, BitVec.ofNat_toNat, BitVec.setWidth_eq]

theorem hexValue_hexDigits2_natCast (v : BitVec 8) : hexValue (hexDigits2 (BitVec.ofInt 8 v.toNat)) = v.toNat := by
  rw [hexValue_hexDigits2, BitVec.ofInt_natCast, BitVec.ofNat_toNat, BitVec.setWidth_eq]

/-- Settles O18: the digits of the register's value. -/
theorem registerAnswersReadBack : Obligations.RegisterAnswersReadBack := by
  refine fun s => ⟨⟨_, hexDigits4_length _, hexDigitValue_ne_none_of_mem_hexDigits4, hexValue_hexDigits4_natCast _, ?gn⟩,
    ⟨_, hexDigits4_length _, hexDigitValue_ne_none_of_mem_hexDigits4, hexValue_hexDigits4_natCast _, ?gp⟩,
    ⟨_, hexDigits2_length _, hexDigitValue_ne_none_of_mem_hexDigits2, hexValue_hexDigits2_natCast _, ?gd⟩⟩
  case gn => rw [exec_gn, emit_fmtHex4]
  case gp => rw [exec_gp, emit_fmtHex4]
  case gd => rw [exec_gd, emit_fmtHex2]

/-! ## The temperature -/

/-- The sample of a turn as a number: its low ADC_BITS bits (60_exceptions.md R413). -/
theorem readAdc_toNat (channel : Nat) (s : State) :
    (readAdc channel s).toNat = s.env.turn.adc.toNat % 2 ^ s.cfg.adcBits := by
  rw [readAdc, BitVec.toNat_ofNat]
  exact Nat.mod_eq_of_lt ((Nat.mod_le _ _).trans_lt s.env.turn.adc.isLt)

/-- The temperature over the common denominator, where that is not 0. -/
theorem temperature_eq_ediv (k : TempConstants) (sample : Word16) (den : k.slopeUv * k.adcSteps ≠ 0) :
    temperature k sample = 2 * ((k.refCelsius * (k.slopeUv * k.adcSteps : ℕ) + k.refUv * k.adcSteps -
      sample.toNat * k.vrefUv) / (k.slopeUv * k.adcSteps : ℕ)) := by
  rw [← Int.fdiv_eq_ediv_of_nonneg _ (Int.natCast_nonneg _)]
  exact if_neg den

/-- The temperature is the document's formula in exact rational arithmetic, floored and doubled, where it divides by no
zero (41_host_commands.md R170). -/
theorem temperature_eq_floor (k : TempConstants) (sample : Word16) (steps : 0 < k.adcSteps) (slope : 0 < k.slopeUv) :
    temperature k sample = 2 * ⌊(k.refCelsius : ℚ) - ((sample.toNat : ℚ) * ((k.vrefUv : ℚ) / 1000000) / k.adcSteps -
      (k.refUv : ℚ) / 1000000) / ((k.slopeUv : ℚ) / 1000000)⌋ := by
  have hsteps : (k.adcSteps : ℚ) ≠ 0 := by positivity
  have hslope : (k.slopeUv : ℚ) ≠ 0 := by positivity
  have den : k.slopeUv * k.adcSteps ≠ 0 := by positivity
  have common : (k.refCelsius : ℚ) - ((sample.toNat : ℚ) * ((k.vrefUv : ℚ) / 1000000) / k.adcSteps -
        (k.refUv : ℚ) / 1000000) / ((k.slopeUv : ℚ) / 1000000) =
      ((k.refCelsius * (k.slopeUv * k.adcSteps : ℕ) + k.refUv * k.adcSteps - sample.toNat * k.vrefUv : ℤ) : ℚ) /
        (k.slopeUv * k.adcSteps : ℕ) := by
    push_cast
    field_simp
    ring
  rw [common, Rat.floor_intCast_div_natCast, temperature_eq_ediv k sample den]

/-- The stated constants as the document writes them, in volts (41_host_commands.md R170). -/
theorem temperature_statedTemp (sample : Word16) :
    temperature statedTemp sample =
      2 * ⌊(27 : ℚ) - ((sample.toNat : ℚ) * (33 / 10) / 4096 - 706 / 1000) / (1721 / 1000000)⌋ := by
  rw [temperature_eq_floor _ _ (by decide) (by decide)]
  norm_num [statedTemp]

/-- A 12-bit sample's temperature, between that of the largest sample and that of 0. -/
theorem temperature_statedTemp_bounds {sample : Word16} (bits : sample.toNat < 4096) :
    -2960 ≤ temperature statedTemp sample ∧ temperature statedTemp sample ≤ 874 := by
  have integer : temperature statedTemp sample = 2 * ((3082104832 - sample.toNat * 3300000) / 7049216 : ℤ) := by
    rw [temperature_eq_ediv _ _ (by decide)]
    norm_num [statedTemp]
  rw [integer]
  omega

/-- Settles O19: the answer's digits read back modulo 2^16, and the formula in general and with the stated constants. -/
theorem temperatureAnswer : Obligations.TemperatureAnswer := by
  rintro s sample k hsample rfl
  rw [← readAdc_toNat s.cfg.tempAdcChannel] at hsample
  subst hsample
  refine ⟨_, temperature s.cfg.temp (readAdc s.cfg.tempAdcChannel s), hexDigits4_length _,
    hexDigitValue_ne_none_of_mem_hexDigits4, hexValue_hexDigits4_ofInt _, by rw [exec_gt, emit_fmtHex4],
    temperature_eq_floor _ _, fun stated => ?stated⟩
  case stated =>
    rw [stated]
    refine ⟨temperature_statedTemp _, fun twelve => temperature_statedTemp_bounds ?_⟩
    rw [readAdc_toNat, twelve]
    exact Nat.mod_lt _ (by decide)

end Sys2Proof.Machine
end

section
/-! Motion requests (43_motion_requests.md): distance and direction between two positions, and what each of the four
requests does. -/

namespace Sys2Proof.Machine

/-! ## Distance and direction -/

theorem distance_lt (t c : Position) : distance t c < 65536 := by
  have ht := t.isLt
  have hc := c.isLt
  unfold distance
  split <;> omega

theorem distance_eq_abs (t c : Position) : (distance t c : Int) = |(t.toNat : Int) - c.toNat| := by
  unfold distance
  split
  · rw [abs_of_nonneg (by omega)]; omega
  · rw [abs_of_nonpos (by omega)]; omega

@[simp] theorem distance_self (t : Position) : distance t t = 0 := by simp [distance]

theorem distance_of_lt {t c : Position} (below : c.toNat < t.toNat) : distance t c = t.toNat - c.toNat :=
  if_pos below.le

theorem distance_of_gt {t c : Position} (above : t.toNat < c.toNat) : distance t c = c.toNat - t.toNat :=
  if_neg (Nat.not_le.2 above)

theorem directionToward_of_lt {t c : Position} (below : c.toNat < t.toNat) (d : Direction) :
    directionToward t c d = .forward :=
  if_pos below

theorem directionToward_of_gt {t c : Position} (above : t.toNat < c.toNat) (d : Direction) :
    directionToward t c d = .reverse :=
  (if_neg (Nat.lt_asymm above)).trans (if_pos above)

@[simp] theorem directionToward_self (t : Position) (d : Direction) : directionToward t t d = d := by
  simp [directionToward]

/-- Away from the target the direction is Forward exactly when the target lies above (10_state.md R46). -/
theorem directionToward_eq_forward_iff {t c : Position} (away : c ≠ t) (d : Direction) :
    directionToward t c d = .forward ↔ c.toNat < t.toNat := by
  rcases Nat.lt_trichotomy c.toNat t.toNat with below | same | above
  · simp [directionToward_of_lt below, below]
  · exact absurd (BitVec.eq_of_toNat_eq same) away
  · simp [directionToward_of_gt above, Nat.lt_asymm above]

theorem isForward_eq_decide (d : Direction) : isForward d = decide (d = .forward) := by
  cases d <;> rfl

/-- The steps counted at the start of a motion are the distance: it fits into the register (43_motion_requests.md
R240). -/
@[simp] theorem motorStarted_stepsRemaining_toNat (rampMaxMs : Word32) (t : Position) (m : MotorState) :
    (motorStarted rampMaxMs t m).stepsRemaining.toNat = distance t m.currentPosition := by
  have bound := distance_lt t m.currentPosition
  rw [motorStarted, BitVec.toNat_ofNat, Nat.mod_eq_of_lt (by omega)]

/-! ## The four requests -/

theorem decodeChannelWord_encodeRequest (r : MotionRequest) :
    decodeChannelWord (encodeRequest r) = Instr.ofRequest r := by
  rw [decodeChannelWord, decodeRequest_encodeRequest]

theorem exec_go_of_stepping {s : State} (stepping : s.motor.mode = .stepping) : exec .go s = .next s := by
  simp only [exec, execGo, stepping]

/-- From Idle and from Stopped, Go starts a motion to the target that the engine has (43_motion_requests.md R243). -/
theorem exec_go_of_rest {s : State} (rest : s.motor.mode ≠ .stepping) :
    exec .go s = .next (startMotion s.motor.targetPosition s) := by
  cases mode : s.motor.mode with
  | stepping => exact absurd mode rest
  | idle => simp only [exec, execGo, mode]
  | stopped => simp only [exec, execGo, mode]

/-- Stop as one record update: the engine is Idle where it stands, with its report pending (43_motion_requests.md
R244). -/
theorem exec_stop (s : State) : exec .stop s = .next { s with
    motor := { s.motor with mode := .idle, targetPosition := s.motor.currentPosition, stepsRemaining := 0 }
    c1 := { s.c1 with
      phase := .finalReport, pendingFinal := encodeReport s.motor.currentPosition s.motor.currentPosition }
    pins := { s.pins with stop := true }
    pinTrace := s.pinTrace ++ [.pin .stop true] } := rfl

theorem exec_recalibrate (s : State) : exec .recalibrate s =
    .next (startMotion s.cfg.recalTarget { s with motor := { s.motor with currentPosition := s.cfg.recalPosition } }) := rfl

/-! ## The obligations -/

/-- Settles O31: the registers of motorStarted, with the distance and the direction read off them. -/
theorem targetStartsAMotion : Obligations.TargetStartsAMotion := by
  refine fun s v => ⟨decodeChannelWord_encodeRequest (.target v), motorStarted s.cfg.rampMaxMs v s.motor, rfl, rfl, rfl,
    rfl, ?steps, fun below => directionToward_of_lt below _, fun above => directionToward_of_gt above _, ?same, ?state⟩
  case steps => rw [motorStarted_stepsRemaining_toNat, distance_eq_abs]
  case same => rintro rfl; exact directionToward_self _ _
  case state => rw [exec_target, startMotion_eq, ← isForward_eq_decide]; rfl

/-- Settles O32: Go by the engine's mode. -/
theorem goActsOnlyFromRest : Obligations.GoActsOnlyFromRest := by
  refine fun s => ⟨decodeChannelWord_encodeRequest .go, exec_go_of_stepping, fun rest => ⟨?isTarget, ?starts⟩⟩
  case isTarget => rw [exec_go_of_rest rest, exec_target]
  case starts => exact ⟨_, exec_go_of_rest rest, rfl, rfl, rfl, rfl, rfl⟩

/-- Settles O33: Stop is the one record update of `exec_stop`. -/
theorem stopEndsMotionWhereItStands : Obligations.StopEndsMotionWhereItStands :=
  fun s => ⟨decodeChannelWord_encodeRequest .stop, exec_stop s⟩

/-- Settles O34: Recalibrate starts the motion to RECAL_TARGET from RECAL_POSITION. -/
theorem recalibrateDrivesToTheReference : Obligations.RecalibrateDrivesToTheReference := by
  refine fun s => ⟨decodeChannelWord_encodeRequest .recalibrate, exec_recalibrate s, _, exec_recalibrate s, rfl, rfl,
    rfl, rfl, rfl, rfl, rfl, rfl, rfl, rfl, rfl, rfl, rfl, rfl, rfl, rfl, fun position target => ?document⟩
  case document =>
    rw [startMotion_motor, startMotion_pins, position, target]
    exact ⟨rfl, rfl, rfl⟩

end Sys2Proof.Machine
end

section
/-! Stepping (44_stepping.md): the ramp of the step interval, the position after a pulse, and the Pulse step with its
three ends and its Defect. -/

namespace Sys2Proof.Machine

/-! ## The configuration -/

/-- The conditions of 00_scope.md R9, one by one. -/
theorem wellFormed_iff (c : Config) : c.wellFormed = true ↔
    1 ≤ c.batchSize ∧ 1 ≤ c.rampFloorMs.toNat ∧ 1 ≤ c.rampStepMs.toNat ∧
    c.rampFloorMs.toNat ≤ c.rampMaxMs.toNat ∧ (c.rampMaxMs.toNat - c.rampFloorMs.toNat) % c.rampStepMs.toNat = 0 ∧
    1 ≤ c.overrideStep.toNat ∧ c.overrideStep.toNat < 2 ^ c.posBits ∧ c.recalPosition.toNat < 2 ^ c.posBits ∧
    c.recalTarget.toNat < 2 ^ c.posBits ∧ 1 ≤ c.sendRetryLimit ∧ 0 < c.pauseMs ∧ c.pauseMs < c.exposureMs ∧
    1 ≤ c.irBursts ∧ 1 ≤ c.irPulses ∧ 2 ≤ c.bufCap := by
  simp only [Config.wellFormed, Bool.and_eq_true, decide_eq_true_eq, and_assoc]

/-! ## The ramp -/

/-- An interval `j` ramp steps above the floor is `j - 1` steps above it after the ramp, and stays on the floor
(44_stepping.md R276). -/
theorem rampInterval_toNat {floorMs stepMs interval : Word32} {j : Nat} (positive : 1 ≤ stepMs.toNat)
    (onRamp : interval.toNat = floorMs.toNat + j * stepMs.toNat) :
    (rampInterval floorMs stepMs interval).toNat = floorMs.toNat + (j - 1) * stepMs.toNat := by
  unfold rampInterval
  cases j with
  | zero => rw [if_neg (by omega), onRamp]
  | succ j =>
    rw [Nat.add_one_mul] at onRamp
    rw [if_pos (by omega), BitVec.toNat_sub_of_le (BitVec.le_def.mpr (by omega)), Nat.add_sub_cancel]
    omega

/-- RAMP_MAX_MS is a whole number of ramp steps above the floor (00_scope.md R9). -/
theorem rampMaxMs_eq {c : Config} (wellFormed : c.wellFormed = true) :
    ∃ n, c.rampMaxMs.toNat = c.rampFloorMs.toNat + n * c.rampStepMs.toNat := by
  obtain ⟨_, _, _, floorLe, grid, _⟩ := (wellFormed_iff c).1 wellFormed
  obtain ⟨n, hn⟩ := Nat.dvd_of_mod_eq_zero grid
  exact ⟨n, by rw [Nat.mul_comm] at hn; omega⟩

theorem rampInterval_iterate_toNat {floorMs stepMs interval : Word32} {n : Nat} (positive : 1 ≤ stepMs.toNat)
    (onRamp : interval.toNat = floorMs.toNat + n * stepMs.toNat) (k : Nat) :
    ((rampInterval floorMs stepMs)^[k] interval).toNat = floorMs.toNat + (n - k) * stepMs.toNat := by
  induction k with
  | zero => exact onRamp
  | succ k ih => rw [Function.iterate_succ_apply', rampInterval_toNat positive ih, Nat.sub_sub]

/-- Settles O38: RAMP_MAX_MS is a number of steps above the floor, and each ramp takes one of them. -/
theorem rampReachesTheFloorLinearly : Obligations.RampReachesTheFloorLinearly := by
  intro c k wellFormed
  obtain ⟨_, _, positive, _⟩ := (wellFormed_iff c).1 wellFormed
  obtain ⟨n, hn⟩ := rampMaxMs_eq wellFormed
  rw [rampInterval_iterate_toNat positive hn, hn, Nat.sub_mul]
  omega

/-! ## The position after a pulse -/

theorem pulsedPosition_forward_toNat {c t : Position} (below : c.toNat < t.toNat) :
    (pulsedPosition .forward c).toNat = c.toNat + 1 := by
  have bound := t.isLt
  exact BitVec.toNat_add_of_lt (y := 1) (by change c.toNat + 1 < 2 ^ 16; omega)

theorem pulsedPosition_reverse_toNat {c t : Position} (above : t.toNat < c.toNat) :
    (pulsedPosition .reverse c).toNat + 1 = c.toNat := by
  have one : (1 : Position).toNat = 1 := rfl
  have moved : (pulsedPosition .reverse c).toNat = c.toNat - 1 :=
    BitVec.toNat_sub_of_le (BitVec.le_def.mpr (by omega))
  omega

/-! ## The Pulse step -/

theorem c1Step_of_pulsing {s : State} (pulsing : s.c1.phase = .pulsing) : c1Step s = .next (pulseStep s) := by
  rw [c1Step, pulsing]

/-- The direction disagrees with the positions (44_stepping.md R275). -/
theorem directionDefect_iff (m : MotorState) : directionDefect m = true ↔
    m.direction = .forward ∧ m.targetPosition.toNat ≤ m.currentPosition.toNat ∨
    m.direction = .reverse ∧ m.currentPosition.toNat ≤ m.targetPosition.toNat := by
  unfold directionDefect
  cases m.direction <;> simp

theorem pulseStep_of_defect {s : State} (defect : directionDefect s.motor = true) :
    pulseStep s = raiseDefect .directionInconsistent s :=
  if_pos defect

theorem pulseStep_of_consistent {s : State} (consistent : directionDefect s.motor = false) :
    pulseStep s = endOfPulse (pulseRegisters (stepPulse s)) :=
  if_neg (by simp [consistent])

/-- A recorded Defect is the end of the run (60_exceptions.md R402). -/
theorem step_of_faults {s : State} (recorded : s.faults ≠ []) : ∃ r, step s = .fault r := by
  obtain ⟨r, rs, h⟩ := List.exists_cons_of_ne_nil recorded
  exact ⟨.defect r, by simp only [step, blockStep, h]⟩

/-- Settles O47: the Defect check comes first in the Pulse step, and the fault record first in every step. -/
theorem defectEndsTheRun : Obligations.DefectEndsTheRun := by
  refine ⟨fun s pulsing inconsistent => ?recorded, fun s recorded => step_of_faults recorded⟩
  case recorded =>
    rw [c1Step_of_pulsing pulsing, pulseStep_of_defect ((directionDefect_iff _).2 inconsistent), raiseDefect]

/-- What the end of a pulse leaves as it is: of the engine all but the mode, of C1 the batch count, and everything that
no report and no alarm touches (44_stepping.md R277). -/
theorem endOfPulse_frame (s : State) : endOfPulse s = { s with
    motor := { s.motor with mode := (endOfPulse s).motor.mode }
    c1 := { s.c1 with phase := (endOfPulse s).c1.phase, pendingFinal := (endOfPulse s).c1.pendingFinal }
    fb := (endOfPulse s).fb
    alarms := (endOfPulse s).alarms
    dropLog := (endOfPulse s).dropLog } := by
  obtain ⟨_, h⟩ | ⟨_, _, h⟩ | ⟨_, _, h⟩ := endOfPulse_cases s
  · rw [h]; rfl
  · rw [h, reportIntermediate_eq]; cases s.fb <;> rfl
  · rw [h]

/-- The end of a pulse that completes a batch is the intermediate report and the way back to Override (44_stepping.md
R277). -/
theorem endOfPulse_of_batch_complete {s : State} (away : s.motor.currentPosition ≠ s.motor.targetPosition)
    (complete : s.c1.batchCount = s.cfg.batchSize) :
    endOfPulse s = { reportIntermediate s with c1 := { (reportIntermediate s).c1 with phase := .override } } :=
  (if_neg away).trans (if_pos complete)

theorem endOfPulse_of_at_target {s : State} (atTarget : s.motor.currentPosition = s.motor.targetPosition) :
    endOfPulse s = reachTarget s :=
  if_pos atTarget

theorem endOfPulse_of_batch_open {s : State} (away : s.motor.currentPosition ≠ s.motor.targetPosition)
    (incomplete : s.c1.batchCount ≠ s.cfg.batchSize) : endOfPulse s = { s with c1 := { s.c1 with phase := .pulsing } } :=
  (if_neg away).trans (if_neg incomplete)

/-- The report that a completed batch tries is put, or dropped and logged (42_channel.md R216). -/
theorem endOfPulse_report {s : State} (away : s.motor.currentPosition ≠ s.motor.targetPosition)
    (complete : s.c1.batchCount = s.cfg.batchSize) :
    (s.fb = none → (endOfPulse s).fb = some (fbWord (endOfPulse s)) ∧ (endOfPulse s).dropLog = s.dropLog) ∧
    (s.fb ≠ none → (endOfPulse s).fb = s.fb ∧
      (endOfPulse s).dropLog = s.dropLog ++ [.droppedReport (fbWord (endOfPulse s))]) := by
  rw [endOfPulse_of_batch_complete away complete]
  refine ⟨fun empty => ?put, fun full => ?drop⟩
  case put => rw [reportIntermediate_of_fb_empty empty]; exact ⟨rfl, rfl⟩
  case drop =>
    obtain ⟨w, hw⟩ := Option.ne_none_iff_exists'.1 full
    rw [reportIntermediate_of_fb_full hw]
    exact ⟨rfl, rfl⟩

/-- Settles O37: the pulse and its registers as one record update, then the three ends of a pulse. -/
theorem pulseMovesOneStep : Obligations.PulseMovesOneStep := by
  intro s pulsing forward reverse
  have consistent : directionDefect s.motor = false := by
    rw [Bool.eq_false_iff, Ne, directionDefect_iff]
    rintro (⟨d, h⟩ | ⟨d, h⟩)
    · exact absurd (forward d) (Nat.not_lt.2 h)
    · exact absurd (reverse d) (Nat.not_lt.2 h)
  obtain ⟨p, hp⟩ : ∃ p, p = pulseRegisters (stepPulse s) := ⟨_, rfl⟩
  have frame := endOfPulse_frame p
  obtain ⟨t, ht⟩ : ∃ t, t = endOfPulse p := ⟨_, rfl⟩
  have registers := hp.trans (pulseRegisters_eq s)
  have position : t.motor.currentPosition = p.motor.currentPosition := by rw [ht, frame]
  have target : t.motor.targetPosition = p.motor.targetPosition := by rw [ht, frame]
  have batch : t.c1.batchCount = p.c1.batchCount := by rw [ht, frame]
  refine ⟨t, by rw [c1Step_of_pulsing pulsing, pulseStep_of_consistent consistent, ← hp, ht], ?trace, ?pins, ?up, ?down,
    ?target, ?direction, ?steps, ?ramps, ?floor, ?batch, ?ends, ?goesOn, ?frame⟩
  case trace | pins | direction | steps => rw [ht, frame, registers]
  case target | batch => simp only [target, batch, registers]
  case up =>
    intro d
    rw [position, registers]
    simp only [d]
    exact pulsedPosition_forward_toNat (forward d)
  case down =>
    intro d
    rw [position, registers]
    simp only [d]
    exact pulsedPosition_reverse_toNat (reverse d)
  case ramps =>
    intro above
    rw [ht, frame, registers]
    exact if_pos above
  case floor =>
    intro atFloor
    rw [ht, frame, registers]
    exact if_neg (Nat.not_lt.2 atFloor)
  case ends =>
    intro atTarget
    rw [position, target] at atTarget
    rw [ht, endOfPulse_of_at_target atTarget, registers]
    exact ⟨rfl, rfl, rfl, rfl, rfl, rfl⟩
  case goesOn =>
    intro away
    rw [position, target] at away
    by_cases complete : p.c1.batchCount = p.cfg.batchSize
    · have report := endOfPulse_report away complete
      rw [← ht] at report
      have phase : t.c1.phase = .override ∧ t.motor.mode = p.motor.mode ∧ t.alarms = p.alarms ∧
          t.c1.pendingFinal = p.c1.pendingFinal := by
        rw [ht, endOfPulse_of_batch_complete away complete, reportIntermediate_eq]
        cases p.fb <;> exact ⟨rfl, rfl, rfl, rfl⟩
      obtain ⟨phase, mode, alarms, pending⟩ := phase
      rw [batch]
      rw [registers] at mode alarms pending report complete ⊢
      exact ⟨mode, alarms, pending, fun _ => ⟨phase, report⟩, fun incomplete => absurd complete incomplete⟩
    · rw [batch, ht, endOfPulse_of_batch_open away complete]
      rw [registers] at complete ⊢
      exact ⟨rfl, rfl, rfl, fun full => absurd full complete, fun _ => ⟨rfl, rfl, rfl⟩⟩
  case frame =>
    rw [ht, frame, registers]
    exact ⟨rfl, rfl, rfl, rfl, rfl, rfl, rfl⟩

end Sys2Proof.Machine
end

section
/-! Channel operations (42_channel.md): the bounded retries of C0's Sending step, PollFeedback, C1's Poll step and its
wait in FinalReport. -/

namespace Sys2Proof.Machine

/-! ## Retries -/

/-- The state with `n` attempts counted for the pending request. -/
def withAttempts (n : Nat) (s : State) : State := { s with c0 := { s.c0 with sendAttempts := n } }

/-- While `chan` stays full, each attempt before the last one is only counted (42_channel.md R211). -/
theorem sendingStep_iterate_of_chan_full {s : State} {w h : Word32} (pending : s.c0.pendingSend = some w)
    (full : s.chan = some h) {j : Nat} (room : s.c0.sendAttempts + j < s.cfg.sendRetryLimit) :
    sendingStep^[j] s = withAttempts (s.c0.sendAttempts + j) s := by
  induction j with
  | zero => rfl
  | succ j ih =>
    have notLast : s.c0.sendAttempts + j + 1 ≠ s.cfg.sendRetryLimit := by omega
    rw [Function.iterate_succ_apply', ih (by omega),
      sendingStep_of_chan_full (s := withAttempts (s.c0.sendAttempts + j) s) pending full,
      sendFailed_of_not_last (s := withAttempts (s.c0.sendAttempts + j) s) notLast]
    rfl

/-- Settles O27: the counted attempts by induction, then the last one, which gives up. -/
theorem retriesAreBounded : Obligations.RetriesAreBounded := by
  intro s w h pending full room
  refine ⟨fun j => sendingStep_iterate_of_chan_full pending full, ?drop⟩
  case drop =>
    obtain ⟨j, hj⟩ : ∃ j, s.cfg.sendRetryLimit - s.c0.sendAttempts = j + 1 := ⟨_, (Nat.succ_pred (by omega)).symm⟩
    have last : s.c0.sendAttempts + j + 1 = s.cfg.sendRetryLimit := by omega
    rw [hj, Function.iterate_succ_apply', sendingStep_iterate_of_chan_full pending full (by omega),
      sendingStep_of_chan_full (s := withAttempts (s.c0.sendAttempts + j) s) pending full,
      sendFailed_of_last (s := withAttempts _ s) last]
    rfl

/-! ## Feedback -/

theorem c0Step_of_pollFeedback {s : State} (pollFeedback : s.c0.phase = .pollFeedback) :
    c0Step s = .next (pollFeedbackStep s) := by
  rw [c0Step, pollFeedback]

/-- With `fb` empty PollFeedback changes only the phase (42_channel.md R213). -/
theorem pollFeedbackStep_of_fb_empty {s : State} (empty : s.fb = none) :
    pollFeedbackStep s = { s with c0 := { s.c0 with phase := .getChar } } := by
  rw [pollFeedbackStep, slotTake_eq, empty]

/-- PollFeedback empties `fb` into C0's copies of position and target (42_channel.md R213). -/
theorem pollFeedbackStep_of_fb_full {s : State} {w : Word32} (full : s.fb = some w) :
    pollFeedbackStep s = { s with
      fb := none
      c0 := { s.c0 with hostPosition := reportCurrent w, hostTarget := reportTarget w, phase := .getChar } } := by
  rw [pollFeedbackStep, slotTake_eq, full]

/-- Settles O28: PollFeedback by whether `fb` is empty, and the halves of a report read back. -/
theorem feedbackReachesTheHostRegisters : Obligations.FeedbackReachesTheHostRegisters := by
  intro s pollFeedback
  rw [c0Step_of_pollFeedback pollFeedback]
  refine ⟨fun t c full => ?copies, fun empty => ?nothing⟩
  case copies => rw [pollFeedbackStep_of_fb_full full, reportCurrent_encodeReport, reportTarget_encodeReport]
  case nothing => rw [pollFeedbackStep_of_fb_empty empty]

/-! ## The final report -/

theorem c1Step_of_finalReport {s : State} (finalReport : s.c1.phase = .finalReport) :
    c1Step s = .next (finalReportStep s) := by
  rw [c1Step, finalReport]

theorem finalReportStep_of_fb_full {s : State} {h : Word32} (full : s.fb = some h) : finalReportStep s = s := by
  rw [finalReportStep, full, slotFull_some, if_pos rfl]

theorem finalReportStep_of_fb_empty {s : State} (empty : s.fb = none) :
    finalReportStep s = { s with fb := some s.c1.pendingFinal, c1 := { s.c1 with phase := .override } } := by
  rw [finalReportStep, empty, slotFull_none, slotTryPut_none]
  rfl

/-- Settles O29: FinalReport by whether `fb` is empty. -/
theorem finalReportWaitsForTheSlot : Obligations.FinalReportWaitsForTheSlot := by
  intro s finalReport
  rw [c1Step_of_finalReport finalReport]
  refine ⟨fun h full => ?waits, fun empty => ?puts⟩
  case waits => rw [finalReportStep_of_fb_full full]
  case puts => rw [finalReportStep_of_fb_empty empty]

/-! ## The Poll step -/

theorem c1Step_of_poll {s : State} (poll : s.c1.phase = .poll) : c1Step s = pollStep s := by
  rw [c1Step, poll]

theorem pollStep_of_chan_empty {s : State} (empty : s.chan = none) :
    pollStep s = .next { s with c1 := { s.c1 with phase := .motion } } := by
  rw [pollStep, slotTake_eq, empty]

/-- A word in `chan` is taken, and its instruction runs with C1 at Motion (42_channel.md R214). -/
theorem pollStep_of_chan_full {s : State} {w : Word32} (full : s.chan = some w) :
    pollStep s = exec (decodeChannelWord w) { s with chan := none, c1 := { s.c1 with phase := .motion } } := by
  rw [pollStep, slotTake_eq, full]

/-- A step of C1 is its step by phase and the next turn (00_scope.md R5). -/
theorem step_of_c1 {s : State} (noFault : s.faults = []) (c1 : s.env.turn.agent = .c1) :
    step s = thenDo (c1Step s) advance := by
  simp only [step, blockStep, noFault, agentStep, c1]

/-- Settles O15: the Poll step by whether `chan` is empty, inside C1's turn. -/
theorem stepRunsTheChannelsRequest : Obligations.StepRunsTheChannelsRequest := by
  intro s noFault c1 poll
  rw [step_of_c1 noFault c1, c1Step_of_poll poll]
  refine ⟨?word, fun empty => ?nothing⟩
  case word =>
    rintro w i full rfl
    rw [pollStep_of_chan_full full]
    rfl
  case nothing => rw [pollStep_of_chan_empty empty, thenDo_next, advance]

end Sys2Proof.Machine
end

section
/-! Alarms (60_exceptions.md section 2) and the intervalometer (46_intervalometer.md): the sorted list as a multiset, the
Fire step, and the Imaging step by the session's phase. -/

namespace Sys2Proof.Machine

/-! ## The order of the list -/

theorem alarmLe_iff {a b : Alarm} : alarmLe a b = true ↔
    alarmRank a.kind < alarmRank b.kind ∨ (alarmRank a.kind = alarmRank b.kind ∧ a.delayMs ≤ b.delayMs) := by
  simp only [alarmLe, Bool.or_eq_true, Bool.and_eq_true, decide_eq_true_eq]

theorem alarmLe_total (a b : Alarm) : alarmLe a b = true ∨ alarmLe b a = true := by
  simp only [alarmLe_iff]
  omega

theorem alarmLe_trans {a b c : Alarm} (hab : alarmLe a b = true) (hbc : alarmLe b c = true) : alarmLe a c = true := by
  simp only [alarmLe_iff] at *
  omega

theorem alarmRank_inj {j k : AlarmKind} (h : alarmRank j = alarmRank k) : j = k := by
  cases j <;> cases k <;> simp [alarmRank] at h ⊢

/-- Alarms that are listed either way round are the same one, so each multiset has one sorted list (log 12). -/
theorem alarmLe_antisymm {a b : Alarm} (hab : alarmLe a b = true) (hba : alarmLe b a = true) : a = b := by
  simp only [alarmLe_iff] at hab hba
  obtain ⟨kind, delay⟩ := a
  obtain ⟨kind', delay'⟩ := b
  have sameRank : alarmRank kind = alarmRank kind' := by dsimp only at hab hba; omega
  have sameDelay : delay = delay' := by dsimp only at hab hba; omega
  rw [alarmRank_inj sameRank, sameDelay]

theorem alarmsSorted_iff_pairwise (as : List Alarm) :
    alarmsSorted as = true ↔ as.Pairwise (alarmLe · · = true) := by
  have : Trans (alarmLe · · = true) (alarmLe · · = true) (alarmLe · · = true) := ⟨alarmLe_trans⟩
  rw [← List.isChain_iff_pairwise]
  induction as with
  | nil => simp [alarmsSorted]
  | cons a as ih =>
    cases as with
    | nil => simp [alarmsSorted]
    | cons b as => simp only [alarmsSorted, Bool.and_eq_true, ih, List.isChain_cons_cons]

/-! ## Arming -/

theorem insertAlarm_eq_orderedInsert (a : Alarm) (as : List Alarm) :
    insertAlarm a as = as.orderedInsert (alarmLe · · = true) a := by
  induction as with
  | nil => rfl
  | cons b as ih => rw [insertAlarm, ih, List.orderedInsert_cons]

theorem insertAlarm_perm (a : Alarm) (as : List Alarm) : (insertAlarm a as).Perm (a :: as) := by
  rw [insertAlarm_eq_orderedInsert]
  exact List.perm_orderedInsert _ a as

theorem alarmsSorted_insertAlarm {as : List Alarm} (sorted : alarmsSorted as = true) (a : Alarm) :
    alarmsSorted (insertAlarm a as) = true := by
  have : Std.Total (alarmLe · · = true) := ⟨alarmLe_total⟩
  have : IsTrans Alarm (alarmLe · · = true) := ⟨fun _ _ _ => alarmLe_trans⟩
  rw [alarmsSorted_iff_pairwise] at sorted ⊢
  rw [insertAlarm_eq_orderedInsert]
  exact sorted.orderedInsert a as

/-- Settles O46: insertion adds the one alarm and keeps the order, whose antisymmetry makes the sorted list unique. -/
theorem alarmsAreAMultiset : Obligations.AlarmsAreAMultiset := by
  refine ⟨fun s ms kind => ⟨insertAlarm_perm _ _, fun sorted => alarmsSorted_insertAlarm sorted _⟩,
    fun as bs sortedA sortedB perm => ?unique⟩
  case unique =>
    rw [alarmsSorted_iff_pairwise] at sortedA sortedB
    exact perm.eq_of_pairwise (fun _ _ _ _ => alarmLe_antisymm) sortedA sortedB

/-! ## Firing -/

/-- A callback leaves the armed alarms as they are. -/
@[simp] theorem runCallback_alarms (kind : AlarmKind) (s : State) : (runCallback kind s).alarms = s.alarms := by
  cases kind <;> rfl

/-- Cooldown drives STOP high (44_stepping.md R279). -/
theorem runCallback_cooldown (s : State) : runCallback .cooldown s = { s with
    pins := { s.pins with stop := true }, pinTrace := s.pinTrace ++ [.pin .stop true] } := rfl

/-- Exposure and Pause require a click (46_intervalometer.md R323, R324). -/
theorem runCallback_of_ne_cooldown {kind : AlarmKind} (notCooldown : kind ≠ .cooldown) (s : State) :
    runCallback kind s = { s with imaging := { s.imaging with clickRequired := true } } := by
  cases kind with
  | cooldown => exact absurd rfl notCooldown
  | exposure => rfl
  | pause => rfl

theorem fireStep_of_none {s : State} (empty : s.alarms = []) : fireStep s = s := by
  simp [fireStep, empty]

theorem fireStep_of_armed {s : State} {a : Alarm} (fires : s.alarms[firingIndex s]? = some a) :
    fireStep s = runCallback a.kind { s with alarms := s.alarms.eraseIdx (firingIndex s) } := by
  rw [fireStep, fires]

/-- With an alarm armed, one fires: the turn's number is taken modulo how many there are (log 13). -/
theorem exists_firing {s : State} (armed : s.alarms ≠ []) : ∃ a, s.alarms[firingIndex s]? = some a :=
  ⟨_, List.getElem?_eq_getElem (Nat.mod_lt _ (List.length_pos_iff.2 armed))⟩

theorem fireStep_alarms_perm {s : State} {a : Alarm} (fires : s.alarms[firingIndex s]? = some a) :
    (a :: (fireStep s).alarms).Perm s.alarms := by
  obtain ⟨h, rfl⟩ := List.getElem?_eq_some_iff.1 fires
  rw [fireStep_of_armed fires, runCallback_alarms]
  exact List.getElem_cons_eraseIdx_perm h

/-- The alarm that fires and what its kind does (60_exceptions.md R405, R406). -/
theorem fireStep_spec {s : State} {a : Alarm} (fires : s.alarms[firingIndex s]? = some a) :
    (a.kind = .cooldown → fireStep s = { s with
      alarms := (fireStep s).alarms
      pins := { s.pins with stop := true }
      pinTrace := s.pinTrace ++ [.pin .stop true] }) ∧
    (a.kind ≠ .cooldown → fireStep s = { s with
      alarms := (fireStep s).alarms
      imaging := { s.imaging with clickRequired := true } }) := by
  rw [fireStep_of_armed fires]
  refine ⟨fun cooldown => ?stop, fun notCooldown => ?click⟩
  case stop => rw [cooldown, runCallback_cooldown]
  case click => rw [runCallback_of_ne_cooldown notCooldown]

/-- Settles O45: the alarm at the turn's index, which can be any armed one. -/
theorem oneAlarmFires : Obligations.OneAlarmFires := by
  refine ⟨fun s armed => ?fires, fun s a mem => ?any, fun s empty => fireStep_of_none empty⟩
  case fires =>
    obtain ⟨a, fires⟩ := exists_firing armed
    exact ⟨a, List.mem_of_getElem? fires, fireStep_alarms_perm fires, fireStep_spec fires⟩
  case any =>
    obtain ⟨n, h, rfl⟩ := List.mem_iff_getElem.1 mem
    refine ⟨n, fireStep_alarms_perm ?_⟩
    rw [firingIndex]
    dsimp only
    rw [Nat.mod_eq_of_lt h, List.getElem?_eq_getElem h]

/-! ## The session's phase -/

theorem imgPhase_eq_idle_iff (s : State) : imgPhase s = .idle ↔ s.imaging.started = false := by
  unfold imgPhase
  cases s.imaging.started <;> cases s.imaging.shutterOpen <;> simp

theorem imgPhase_eq_shutterOpen_iff (s : State) :
    imgPhase s = .shutterOpen ↔ s.imaging.started = true ∧ s.imaging.shutterOpen = true := by
  unfold imgPhase
  cases s.imaging.started <;> cases s.imaging.shutterOpen <;> simp

theorem imgPhase_eq_pauseAfterClose_iff (s : State) :
    imgPhase s = .pauseAfterClose ↔ s.imaging.started = true ∧ s.imaging.shutterOpen = false := by
  unfold imgPhase
  cases s.imaging.started <;> cases s.imaging.shutterOpen <;> simp

/-! ## The Imaging step -/

theorem c1Step_of_imaging {s : State} (imaging : s.c1.phase = .imaging) : c1Step s = .next (imagingStep s) := by
  rw [c1Step, imaging]

theorem armSession_of_started {m : ImagingState} (started : m.started = true) (sw : Bool) : armSession sw m = m := by
  simp [armSession, started]

theorem armSession_of_switch_inactive (m : ImagingState) : armSession false m = m := rfl

/-- An active switch starts a session, which asks for its opening click (46_intervalometer.md R321). -/
theorem armSession_starts {m : ImagingState} (idle : m.started = false) :
    armSession true m = { started := true, shutterOpen := m.shutterOpen, clickRequired := true } := by
  simp [armSession, idle]

/-- A start of a session always requires a click. -/
theorem armSession_of_not_required {sw : Bool} {m : ImagingState} (rest : (armSession sw m).clickRequired = false) :
    armSession sw m = m := by
  unfold armSession at rest ⊢
  split at rest
  · cases rest
  · rw [if_neg (by assumption)]

theorem imagingStep_of_absent {s : State} (absent : s.cfg.hasIntervalometer = false) :
    imagingStep s = { s with c1 := { s.c1 with phase := .poll } } :=
  if_neg (by simp [absent])

/-- Without a required click the Imaging step only goes on to Poll (46_intervalometer.md R321). -/
theorem imagingStep_of_no_click {s : State}
    (rest : (armSession s.env.turn.imgSwitch s.imaging).clickRequired = false) :
    imagingStep s = { s with c1 := { s.c1 with phase := .poll } } := by
  have same : armSession (getPin .imgSwitch s) s.imaging = s.imaging := armSession_of_not_required rest
  have noClick : s.imaging.clickRequired = false := by rw [← same]; exact rest
  unfold imagingStep
  simp only [same, noClick, Bool.false_eq_true, if_false, ite_self]

/-- The state with C1 at another of its steps. -/
def atPhase (p : C1Phase) (s : State) : State := { s with c1 := { s.c1 with phase := p } }

/-- The state with the intervalometer's registers replaced. -/
def withImaging (m : ImagingState) (s : State) : State := { s with imaging := m }

/-- The click that the Imaging step services, in a session that runs or that it has just started (46_intervalometer.md
R321, R322). -/
theorem imagingStep_of_click {s : State} {m : ImagingState} (built : s.cfg.hasIntervalometer = true)
    (session : armSession s.env.turn.imgSwitch s.imaging = m) (required : m.clickRequired = true) :
    imagingStep s = atPhase .poll (serviceClick s.env.turn.imgSwitch (withImaging m s)) := by
  subst session
  exact (if_pos built).trans (congrArg (atPhase .poll) (if_pos required))

/-- The service of a click as one record update (46_intervalometer.md R322). -/
theorem serviceClick_eq (sw : Bool) (s : State) :
    serviceClick sw s = { s with
      pins := (fireClick s).pins
      pinTrace := (fireClick s).pinTrace
      imaging :=
        { started := s.imaging.started && (!s.imaging.shutterOpen || sw), shutterOpen := !s.imaging.shutterOpen,
          clickRequired := false }
      alarms :=
        if s.imaging.shutterOpen then
          if sw then insertAlarm { kind := .pause, delayMs := s.cfg.pauseMs } s.alarms else s.alarms
        else insertAlarm { kind := .exposure, delayMs := s.cfg.exposureMs } s.alarms } := by
  rw [serviceClick, fireClick_imaging, fireClick_frame s]
  unfold armAfterClick
  cases s.imaging.shutterOpen <;> cases sw <;> simp [scheduleAlarm]

theorem imagingStep_eq_of_click {s : State} {m : ImagingState} (built : s.cfg.hasIntervalometer = true)
    (session : armSession s.env.turn.imgSwitch s.imaging = m) (required : m.clickRequired = true) :
    imagingStep s = { s with
      c1 := { s.c1 with phase := .poll }
      pins := (fireClick s).pins
      pinTrace := (fireClick s).pinTrace
      imaging :=
        { started := m.started && (!m.shutterOpen || s.env.turn.imgSwitch), shutterOpen := !m.shutterOpen,
          clickRequired := false }
      alarms :=
        if m.shutterOpen then
          if s.env.turn.imgSwitch then insertAlarm { kind := .pause, delayMs := s.cfg.pauseMs } s.alarms else s.alarms
        else insertAlarm { kind := .exposure, delayMs := s.cfg.exposureMs } s.alarms } := by
  rw [imagingStep_of_click built session required, serviceClick_eq, withImaging, fireClick_imaging]
  rfl

/-- The two things an Imaging step can be: on to Poll and nothing else, or a click before it (46_intervalometer.md
R321). -/
theorem imagingStep_cases (s : State) :
    imagingStep s = { s with c1 := { s.c1 with phase := .poll } } ∨
    s.cfg.hasIntervalometer = true ∧ (armSession s.env.turn.imgSwitch s.imaging).clickRequired = true := by
  cases built : s.cfg.hasIntervalometer with
  | false => exact .inl (imagingStep_of_absent built)
  | true =>
    cases required : (armSession s.env.turn.imgSwitch s.imaging).clickRequired with
    | false => exact .inl (imagingStep_of_no_click required)
    | true => exact .inr ⟨rfl, rfl⟩

/-- What the Imaging step leaves as it is (46_intervalometer.md R329). -/
theorem imagingStep_frame (s : State) : imagingStep s = { s with
    c1 := { s.c1 with phase := .poll }
    imaging := (imagingStep s).imaging
    alarms := (imagingStep s).alarms
    pins := (imagingStep s).pins
    pinTrace := (imagingStep s).pinTrace } := by
  obtain rest | ⟨built, required⟩ := imagingStep_cases s
  · rw [rest]
  · rw [imagingStep_eq_of_click built rfl required]

/-- A click ends with IR low, so where IR was low the pins stay (46_intervalometer.md R326). -/
theorem imagingStep_pins {s : State} (irLow : s.pins.ir = false) : (imagingStep s).pins = s.pins := by
  obtain rest | ⟨built, required⟩ := imagingStep_cases s
  · rw [rest]
  · rw [imagingStep_eq_of_click built rfl required]
    exact fireClick_pins s irLow

/-- Settles O43: each row of R327 by what armSession makes of the registers, with the invariant's account of an idle
session. -/
theorem imagingPhasesMoveByTheTable : Obligations.ImagingPhasesMoveByTheTable := by
  refine ⟨fun s imaging absent => by rw [c1Step_of_imaging imaging, imagingStep_of_absent absent], ?_⟩
  intro s inv imaging built
  have irLow := inv.pins.irLow
  refine ⟨imagingStep s, c1Step_of_imaging imaging, ?frame, fun idle switch => ?opens,
    fun idle switch => ?rests, fun session noClick => ?waits, fun open_ required switch => ?closes,
    fun open_ required switch => ?ends, fun pause required => ?reopens⟩
  case frame =>
    have frame := imagingStep_frame s
    rwa [imagingStep_pins irLow] at frame
  case opens =>
    rw [imgPhase_eq_idle_iff] at idle
    obtain ⟨closed, -, -⟩ := inv.imaging.noSession idle
    rw [imagingStep_eq_of_click built (by rw [switch, armSession_starts idle]) rfl]
    simp [imgPhase, closed]
  case rests =>
    rw [imgPhase_eq_idle_iff] at idle
    obtain ⟨-, noClick, -⟩ := inv.imaging.noSession idle
    exact imagingStep_of_no_click (by rwa [switch, armSession_of_switch_inactive])
  case waits =>
    rw [Ne, imgPhase_eq_idle_iff, Bool.not_eq_false] at session
    exact imagingStep_of_no_click (by rwa [armSession_of_started session])
  case closes =>
    obtain ⟨started, isOpen⟩ := (imgPhase_eq_shutterOpen_iff s).1 open_
    rw [imagingStep_eq_of_click built (armSession_of_started started _) required]
    simp [imgPhase, started, isOpen, switch]
  case ends =>
    obtain ⟨started, isOpen⟩ := (imgPhase_eq_shutterOpen_iff s).1 open_
    rw [imagingStep_eq_of_click built (armSession_of_started started _) required]
    simp [imgPhase, isOpen, switch]
  case reopens =>
    obtain ⟨started, isClosed⟩ := (imgPhase_eq_pauseAfterClose_iff s).1 pause
    rw [imagingStep_eq_of_click built (armSession_of_started started _) required]
    simp [imgPhase, started, isClosed]

end Sys2Proof.Machine
end

section
/-! Power-on and reset (00_scope.md section 5; 10_state.md section 4): which configurations boot refuses, that the block's
own is not one of them, and that reset meets the invariant. -/

namespace Sys2Proof.Machine

/-! ## Refusal -/

theorem meetsTable_iff (c : Config) : c.meetsTable = true ↔
    c.posBits = 16 ∧ 10 ≤ c.chanPollTimeoutUs ∧ c.chanPollTimeoutUs ≤ 10000 ∧ 0 < c.sendBackoffUs := by
  simp only [Config.meetsTable, Bool.and_eq_true, decide_eq_true_eq, and_assoc]

/-- Settles O49: boot by its two checks, R9's conditions first. -/
theorem bootRefusesIllFormedConfigurations : Obligations.BootRefusesIllFormedConfigurations := by
  intro c e conditions constraints hconditions hconstraints
  rw [← wellFormed_iff] at hconditions
  rw [← meetsTable_iff] at hconstraints
  rw [hconditions, hconstraints]
  refine ⟨fun wellFormed table => ?resets, fun wellFormed noTable => ?outside, fun illFormed => ?illFormed⟩
  case resets => rw [boot, if_pos wellFormed, if_pos table]
  case outside => rw [boot, if_pos wellFormed, if_neg noTable]
  case illFormed => rw [boot, if_neg illFormed]

/-! ## The block's own parameters -/

/-- The OPEN parameters meet R9 whatever their values are (00_scope.md R7, R9; log 6). -/
theorem params_wellFormed : params.wellFormed = true :=
  (wellFormed_iff params).2 ⟨by decide, by decide, by decide, by decide, by decide, by decide, by decide, by decide,
    by decide, Nat.le_add_left _ _, Nat.succ_pos _, Nat.lt_add_of_pos_right (Nat.succ_pos _), by decide, by decide,
    by decide⟩

theorem params_meetsTable : params.meetsTable = true :=
  (meetsTable_iff params).2 ⟨rfl, Nat.le_add_right _ _,
    Nat.add_le_add_left (Nat.le_of_lt_succ (Nat.mod_lt _ (by decide))) 10, Nat.succ_pos _⟩

/-! ## The invariant after reset -/

theorem motorInv_resetOf {c : Config} (wellFormed : c.wellFormed = true) (e : Env) : MotorInv (State.resetOf c e) := by
  obtain ⟨_, _, _, floorLe, grid, _⟩ := (wellFormed_iff c).1 wellFormed
  exact ⟨nofun, fun _ => ⟨rfl, rfl⟩, nofun, nofun, nofun, ⟨floorLe, le_rfl, grid⟩, Nat.zero_le _, nofun, nofun⟩

theorem imagingInv_resetOf (c : Config) (e : Env) : ImagingInv (State.resetOf c e) :=
  ⟨fun _ => rfl, fun _ => ⟨rfl, rfl, rfl⟩, nofun⟩

theorem hostInv_resetOf {c : Config} (wellFormed : c.wellFormed = true) (e : Env) : HostInv (State.resetOf c e) := by
  obtain ⟨_, _, _, _, _, _, _, _, _, retries, _⟩ := (wellFormed_iff c).1 wellFormed
  exact ⟨Nat.zero_le _, nofun, fun _ => rfl, ⟨nofun, fun h => absurd rfl h⟩, retries, fun _ => rfl, nofun, nofun⟩

theorem pinInv_resetOf (c : Config) (e : Env) : PinInv (State.resetOf c e) :=
  ⟨rfl, rfl, nofun, fun _ ⟨_, h⟩ => absurd h List.not_mem_nil⟩

/-- Reset meets the invariant with every configuration that boot does not refuse (10_state.md section 3, R48). -/
theorem inv_resetOf {c : Config} (wellFormed : c.wellFormed = true) (table : c.meetsTable = true) (e : Env) :
    Inv (State.resetOf c e) :=
  ⟨wellFormed, table, rfl, motorInv_resetOf wellFormed e, imagingInv_resetOf c e, ⟨rfl, nofun⟩,
    hostInv_resetOf wellFormed e, pinInv_resetOf c e⟩

theorem pinsFollowTrace_resetOf (c : Config) (e : Env) : PinsFollowTrace (State.resetOf c e) := by
  intro id
  cases id <;> rfl

/-- No click has happened and the shutter is believed closed. -/
theorem clicksMatchShutter_resetOf (c : Config) (e : Env) : ClicksMatchShutter (State.resetOf c e) :=
  ⟨0, by rw [Nat.zero_mul]; rfl, by simp⟩

/-- Settles O51: reset of the block's own parameters. -/
theorem resetMeetsInv : Obligations.ResetMeetsInv :=
  ⟨inv_resetOf params_wellFormed params_meetsTable _, pinsFollowTrace_resetOf _ _, clicksMatchShutter_resetOf _ _⟩

end Sys2Proof.Machine
end

section
/-! What the pins do in a step (20_memory.md section 5): the events that an operation appends to the pin trace, and that
the pins move as the events say. -/

namespace Sys2Proof.Machine

/-! ## Events and pins together -/

theorem tracedLevel_append (id : OutPin) (before : Bool) (a b : List PinEvent) :
    tracedLevel id before (a ++ b) = tracedLevel id (tracedLevel id before a) b :=
  List.foldl_append

theorem irHighs_append (a b : List PinEvent) : irHighs (a ++ b) = irHighs a + irHighs b :=
  List.countP_append

theorem stepPulses_append (a b : List PinEvent) : stepPulses (a ++ b) = stepPulses a + stepPulses b :=
  List.countP_append

/-- From `s` to `t` the pin trace grew by `events`, and every pin moved as they say. -/
structure Drives (s t : State) (events : List PinEvent) : Prop where
  trace : t.pinTrace = s.pinTrace ++ events
  levels : ∀ id, pinLevel id t.pins = tracedLevel id (pinLevel id s.pins) events

theorem Drives.of_same {s t : State} (pins : t.pins = s.pins) (trace : t.pinTrace = s.pinTrace) : Drives s t [] :=
  ⟨by rw [trace, List.append_nil], fun _ => by rw [pins]; rfl⟩

theorem Drives.trans {s t u : State} {a b : List PinEvent} (first : Drives s t a) (second : Drives t u b) :
    Drives s u (a ++ b) :=
  ⟨by rw [second.trace, first.trace, List.append_assoc],
    fun id => by rw [second.levels, first.levels, tracedLevel_append]⟩

/-- Nothing but the pins and their trace matters. -/
theorem Drives.congr {s t s' t' : State} {events : List PinEvent} (drives : Drives s t events)
    (before : s'.pins = s.pins ∧ s'.pinTrace = s.pinTrace) (after : t'.pins = t.pins ∧ t'.pinTrace = t.pinTrace) :
    Drives s' t' events := by
  obtain ⟨beforePins, beforeTrace⟩ := before
  obtain ⟨afterPins, afterTrace⟩ := after
  exact ⟨by rw [afterTrace, beforeTrace, drives.trace], fun id => by rw [afterPins, beforePins, drives.levels]⟩

theorem drives_setPin (id : OutPin) (level : Bool) (s : State) : Drives s (setPin id level s) [.pin id level] :=
  ⟨rfl, fun id' => pinLevel_pinsWith id' id level s.pins⟩

theorem drives_hold (us : Nat) (s : State) : Drives s (hold us s) [.hold us] :=
  ⟨rfl, fun _ => rfl⟩

/-! ## The operations -/

theorem drives_startMotion (t : Position) (s : State) : Drives s (startMotion t s)
    [.pin .dir (isForward (directionToward t s.motor.currentPosition s.motor.direction)), .pin .stop false] :=
  ((drives_setPin .dir _ _).trans (drives_setPin .stop false _)).congr ⟨rfl, rfl⟩ ⟨rfl, rfl⟩

theorem drives_irPulse (us : Nat) (s : State) : Drives s (irPulse us s) (pulseEvents us) :=
  (((drives_setPin .ir true s).trans (drives_hold us _)).trans (drives_setPin .ir false _)).trans (drives_hold us _)

theorem drives_irBurst (us n : Nat) (s : State) : Drives s (irBurst us n s) (burstEvents us n) := by
  induction n generalizing s with
  | zero => exact .of_same rfl rfl
  | succ n ih => exact (drives_irPulse us s).trans (ih (irPulse us s))

theorem drives_irBursts (pulses us gapUs n : Nat) (s : State) :
    Drives s (irBursts pulses us gapUs n s) (clickEvents pulses us gapUs n) := by
  induction n generalizing s with
  | zero => exact .of_same rfl rfl
  | succ n ih =>
    cases n with
    | zero => rw [clickEvents_one]; exact drives_irBurst us pulses s
    | succ n =>
      rw [clickEvents_add_two]
      exact (drives_irBurst us pulses s).trans ((drives_hold gapUs _).trans (ih _))

/-- A click's waveform is all that it does to the pins, whatever its numbers of bursts and pulses are. -/
theorem drives_fireClick (s : State) : Drives s (fireClick s)
    (clickEvents s.cfg.irPulses s.cfg.irPulseUs s.cfg.irGapUs s.cfg.irBursts) :=
  drives_irBursts _ _ _ _ s

theorem irHighs_burstEvents (us n : Nat) : irHighs (burstEvents us n) = n := by
  induction n with
  | zero => rfl
  | succ n ih => rw [burstEvents_succ, irHighs_append, ih, Nat.add_comm]; rfl

/-- A click drives IR high once per pulse (46_intervalometer.md R326). -/
theorem irHighs_clickEvents (pulses us gapUs n : Nat) : irHighs (clickEvents pulses us gapUs n) = n * pulses := by
  induction n with
  | zero => rw [Nat.zero_mul]; rfl
  | succ n ih =>
    cases n with
    | zero => rw [clickEvents_one, irHighs_burstEvents, Nat.zero_add, Nat.one_mul]
    | succ n =>
      have gap : irHighs (.hold gapUs :: clickEvents pulses us gapUs (n + 1)) =
          irHighs (clickEvents pulses us gapUs (n + 1)) := List.countP_cons_of_neg (by simp)
      rw [clickEvents_add_two, irHighs_append, irHighs_burstEvents, gap, ih]
      ring

/-- The events of a step pulse (44_stepping.md R275). -/
def stepPulseEvents (us : Nat) : List PinEvent := [.pin .step true, .hold us, .pin .step false, .hold us]

theorem drives_stepPulse (s : State) :
    Drives s (stepPulse s) (stepPulseEvents (s.motor.stepIntervalMs.toNat * 1000)) :=
  (((drives_setPin .step true s).trans (drives_hold _ _)).trans (drives_setPin .step false _)).trans (drives_hold _ _)

end Sys2Proof.Machine
end

section
/-! What a step of each agent writes (10_state.md section 2): C0's, C1's and IRQ's step as what they leave unchanged and
in which direction the rest moves, and the statements about every step that follow from it. -/

namespace Sys2Proof.Machine

/-! ## C0 -/

/-- What C0's step leaves unchanged, and how it uses the mailboxes, the output and the drop log. -/
structure HostStep (s u : State) : Prop where
  cfg : u.cfg = s.cfg
  env : u.env = s.env
  motorSide : SameMotorSide s u
  chan : u.chan = s.chan ∨ s.chan = none
  fb : u.fb = s.fb ∨ u.fb = none
  hostOut : s.hostOut <+: u.hostOut
  dropLog : s.dropLog <+: u.dropLog
  answers : u.hostOut ≠ s.hostOut →
    s.c0.phase = .getChar ∧ s.c0.codec.inFrame = true ∧ s.env.turn.char = some 0x23

theorem sameMotorSide_rfl (s : State) : SameMotorSide s s := ⟨rfl, rfl, rfl, rfl, rfl, rfl, rfl⟩

/-- Only a `#` in a frame completes it (40_codec.md R135). -/
theorem codecFeed_completes {cap : Nat} {k : Codec} {ch : Byte} {buf : List Byte}
    (completed : (codecFeed cap k ch).2 = some buf) : ch = 0x23 ∧ k.inFrame = true := by
  cases charKind : charClass ch with
  | frameStart => rw [charClass_eq_frameStart_iff.1 charKind] at completed; cases completed
  | other => rw [codecFeed_other charKind] at completed; cases completed
  | data =>
    cases inFrame : k.inFrame with
    | false => rw [codecFeed_data_outside charKind inFrame] at completed; cases completed
    | true => rw [codecFeed_data_inside charKind inFrame] at completed; cases completed
  | frameEnd =>
    obtain rfl := charClass_eq_frameEnd_iff.1 charKind
    cases inFrame : k.inFrame with
    | false => rw [codecFeed_frameEnd_outside inFrame] at completed; cases completed
    | true => exact ⟨rfl, rfl⟩

theorem getCharStep_hostStep {s u : State} (getChar : s.c0.phase = .getChar) (h : getCharStep s = .next u) :
    HostStep s u := by
  obtain ⟨_, rfl⟩ | ⟨ch, _, _, rfl⟩ | ⟨ch, buf, v, char, completed, runs, rfl⟩ := getCharStep_cases h
  · exact ⟨rfl, rfl, sameMotorSide_rfl s, .inl rfl, .inl rfl, List.prefix_rfl, List.prefix_rfl, fun h => absurd rfl h⟩
  · exact ⟨rfl, rfl, sameMotorSide_rfl s, .inl rfl, .inl rfl, List.prefix_rfl, List.prefix_rfl, fun h => absurd rfl h⟩
  · obtain ⟨rfl, inside⟩ := codecFeed_completes completed
    obtain ⟨frame, output, -⟩ := exec_host_frame (decodeBuffer_ne_request _ _) runs
    rw [frame] at output ⊢
    exact ⟨rfl, rfl, sameMotorSide_rfl s, .inl rfl, .inl rfl, output, List.prefix_rfl, fun _ => ⟨getChar, inside, char⟩⟩

theorem sendingStep_hostStep (s : State) : HostStep s (sendingStep s) := by
  cases pending : s.c0.pendingSend with
  | none =>
    rw [sendingStep, pending]
    exact ⟨rfl, rfl, sameMotorSide_rfl s, .inl rfl, .inl rfl, List.prefix_rfl, List.prefix_rfl, fun h => absurd rfl h⟩
  | some w =>
    cases chan : s.chan with
    | none =>
      rw [sendingStep_of_chan_empty pending chan]
      exact ⟨rfl, rfl, sameMotorSide_rfl s, .inr chan, .inl rfl, List.prefix_rfl, List.prefix_rfl,
        fun h => absurd rfl h⟩
    | some held =>
      rw [sendingStep_of_chan_full pending chan]
      by_cases last : s.c0.sendAttempts + 1 = s.cfg.sendRetryLimit
      · rw [sendFailed_of_last last]
        exact ⟨rfl, rfl, sameMotorSide_rfl s, .inl rfl, .inl rfl, List.prefix_rfl, List.prefix_append _ _,
          fun h => absurd rfl h⟩
      · rw [sendFailed_of_not_last last]
        exact ⟨rfl, rfl, sameMotorSide_rfl s, .inl rfl, .inl rfl, List.prefix_rfl, List.prefix_rfl,
          fun h => absurd rfl h⟩

theorem pollFeedbackStep_hostStep (s : State) : HostStep s (pollFeedbackStep s) := by
  cases fb : s.fb with
  | none =>
    rw [pollFeedbackStep_of_fb_empty fb]
    exact ⟨rfl, rfl, sameMotorSide_rfl s, .inl rfl, .inl rfl, List.prefix_rfl, List.prefix_rfl, fun h => absurd rfl h⟩
  | some w =>
    rw [pollFeedbackStep_of_fb_full fb]
    exact ⟨rfl, rfl, sameMotorSide_rfl s, .inl rfl, .inr rfl, List.prefix_rfl, List.prefix_rfl, fun h => absurd rfl h⟩

theorem c0Step_hostStep {s u : State} (h : c0Step s = .next u) : HostStep s u := by
  obtain ⟨getChar, h⟩ | ⟨-, rfl⟩ | ⟨-, rfl⟩ := c0Step_cases h
  · exact getCharStep_hostStep getChar h
  · exact sendingStep_hostStep s
  · exact pollFeedbackStep_hostStep s

/-! ## C1 -/

/-- What C1's step leaves unchanged, how it uses the mailboxes and the traces, and in which of its steps it writes the
position, the target and the intervalometer's registers. -/
structure MotorStep (s u : State) : Prop where
  cfg : u.cfg = s.cfg
  env : u.env = s.env
  hostSide : SameHostSide s u
  chan : u.chan = if s.c1.phase = .poll then none else s.chan
  fb : u.fb = s.fb ∨ (s.c1.phase ≠ .poll ∧ s.fb = none)
  dropLog : s.dropLog <+: u.dropLog
  faults : s.faults <+: u.faults
  drives : ∃ events, Drives s u events ∧ (s.c1.phase ≠ .imaging → irHighs events = 0)
  imaging : s.c1.phase ≠ .imaging → u.imaging = s.imaging
  position : u.motor.currentPosition ≠ s.motor.currentPosition →
    s.c1.phase = .pulsing ∨ (s.c1.phase = .poll ∧ ∃ w, s.chan = some w ∧ decodeChannelWord w = .recalibrate)
  target : u.motor.targetPosition ≠ s.motor.targetPosition →
    s.c1.phase = .override ∨ (s.c1.phase = .poll ∧ s.chan ≠ none)

/-- The Override step as named operations: what the buttons start, the settle hold, and on to Imaging. -/
theorem overrideStep_eq (s : State) : overrideStep s =
    atPhase .imaging (hold (s.cfg.settleMs * 1000) (overrideMotion s.env.turn.btnInc s.env.turn.btnDec s)) := rfl

/-- The buttons start nothing or a motion (45_manual_override.md R300). -/
theorem overrideMotion_starts (inc dec : Bool) (s : State) :
    overrideMotion inc dec s = s ∨ ∃ t, overrideMotion inc dec s = startMotion t s := by
  obtain h | h | ⟨-, h⟩ := overrideMotion_cases inc dec s
  · exact .inl h
  · exact .inr ⟨_, h⟩
  · exact .inr ⟨_, h⟩

theorem overrideStep_motorStep {s : State} (override : s.c1.phase = .override) : MotorStep s (overrideStep s) := by
  have chan : s.chan = if s.c1.phase = .poll then none else s.chan := by rw [override]; rfl
  rw [overrideStep_eq]
  obtain rests | ⟨t, starts⟩ := overrideMotion_starts s.env.turn.btnInc s.env.turn.btnDec s
  · rw [rests]
    exact ⟨rfl, rfl, ⟨rfl, rfl⟩, chan, .inl rfl, List.prefix_rfl, List.prefix_rfl,
      ⟨_, (drives_hold _ s).congr ⟨rfl, rfl⟩ ⟨rfl, rfl⟩, fun _ => rfl⟩, fun _ => rfl, fun h => absurd rfl h,
      fun _ => .inl override⟩
  · rw [starts]
    exact ⟨rfl, rfl, ⟨rfl, rfl⟩, chan, .inl rfl, List.prefix_rfl, List.prefix_rfl,
      ⟨_, ((drives_startMotion t s).trans (drives_hold _ _)).congr ⟨rfl, rfl⟩ ⟨rfl, rfl⟩, fun _ => by simp [irHighs]⟩,
      fun _ => rfl, fun h => absurd rfl h, fun _ => .inl override⟩

/-- What an Imaging step traces: nothing, or one click, which turns the shutter (46_intervalometer.md R322, R326). -/
theorem imagingStep_drives (s : State) :
    (Drives s (imagingStep s) [] ∧ (imagingStep s).imaging.shutterOpen = s.imaging.shutterOpen) ∨
    (Drives s (imagingStep s) (clickEvents s.cfg.irPulses s.cfg.irPulseUs s.cfg.irGapUs s.cfg.irBursts) ∧
      (imagingStep s).imaging.shutterOpen = !s.imaging.shutterOpen) := by
  have kept : (armSession s.env.turn.imgSwitch s.imaging).shutterOpen = s.imaging.shutterOpen := by
    unfold armSession
    split <;> rfl
  obtain rest | ⟨built, required⟩ := imagingStep_cases s
  · rw [rest]
    exact .inl ⟨.of_same rfl rfl, rfl⟩
  · rw [imagingStep_eq_of_click built rfl required]
    exact .inr ⟨(drives_fireClick s).congr ⟨rfl, rfl⟩ ⟨rfl, rfl⟩, by rw [← kept]⟩

theorem imagingStep_motorStep {s : State} (imaging : s.c1.phase = .imaging) : MotorStep s (imagingStep s) := by
  have chan : s.chan = if s.c1.phase = .poll then none else s.chan := by rw [imaging]; rfl
  have drives : ∃ events, Drives s (imagingStep s) events :=
    (imagingStep_drives s).elim (fun h => ⟨_, h.1⟩) (fun h => ⟨_, h.1⟩)
  obtain ⟨events, drives⟩ := drives
  have frame := imagingStep_frame s
  rw [frame] at drives ⊢
  exact ⟨rfl, rfl, ⟨rfl, rfl⟩, chan, .inl rfl, List.prefix_rfl, List.prefix_rfl,
    ⟨events, drives, fun h => absurd imaging h⟩, fun h => absurd imaging h, fun h => absurd rfl h, fun h => absurd rfl h⟩

/-- A request drives DIR and STOP alone, and only Recalibrate forces the position (43_motion_requests.md R240 to
R245). -/
theorem exec_request_drives {r : MotionRequest} {s u : State} (h : exec (Instr.ofRequest r) s = .next u) :
    (∃ events, Drives s u events ∧ irHighs events = 0) ∧
    (u.motor.currentPosition ≠ s.motor.currentPosition → r = .recalibrate) := by
  cases r with
  | target v =>
    cases h
    exact ⟨⟨_, drives_startMotion v s, by simp [irHighs]⟩, fun h => absurd rfl h⟩
  | stop =>
    cases h
    exact ⟨⟨_, (drives_setPin .stop true s).congr ⟨rfl, rfl⟩ ⟨rfl, rfl⟩, rfl⟩, fun h => absurd rfl h⟩
  | go =>
    by_cases stepping : s.motor.mode = .stepping
    · cases (exec_go_of_stepping stepping).symm.trans h
      exact ⟨⟨_, .of_same rfl rfl, rfl⟩, fun h => absurd rfl h⟩
    · cases (exec_go_of_rest stepping).symm.trans h
      exact ⟨⟨_, drives_startMotion _ s, by simp [irHighs]⟩, fun h => absurd rfl h⟩
  | recalibrate =>
    cases h
    have drives := drives_startMotion s.cfg.recalTarget
      { s with motor := { s.motor with currentPosition := s.cfg.recalPosition } }
    exact ⟨⟨_, drives.congr ⟨rfl, rfl⟩ ⟨rfl, rfl⟩, by simp [irHighs]⟩, fun _ => rfl⟩

theorem pollStep_motorStep {s u : State} (poll : s.c1.phase = .poll) (h : pollStep s = .next u) : MotorStep s u := by
  have notImaging : s.c1.phase ≠ .imaging := by rw [poll]; nofun
  obtain ⟨empty, rfl⟩ | ⟨w, full, runs⟩ := pollStep_cases h
  · exact ⟨rfl, rfl, ⟨rfl, rfl⟩, by rw [poll]; rfl, .inl rfl, List.prefix_rfl, List.prefix_rfl,
      ⟨[], .of_same rfl rfl, fun _ => rfl⟩, fun _ => rfl, fun h => absurd rfl h, fun h => absurd rfl h⟩
  · obtain ⟨⟨events, drives, noClick⟩, forced⟩ := exec_request_drives runs
    obtain ⟨frame, -⟩ := exec_request_frame runs
    have position (moved : u.motor.currentPosition ≠ s.motor.currentPosition) :
        decodeChannelWord w = .recalibrate := congrArg Instr.ofRequest (forced moved)
    rw [frame] at drives position ⊢
    exact ⟨rfl, rfl, ⟨rfl, rfl⟩, by rw [poll]; rfl, .inl rfl, List.prefix_rfl, List.prefix_rfl,
      ⟨events, drives.congr ⟨rfl, rfl⟩ ⟨rfl, rfl⟩, fun _ => noClick⟩, fun _ => rfl,
      fun moved => .inr ⟨poll, w, full, position moved⟩, fun _ => .inr ⟨poll, by rw [full]; nofun⟩⟩

theorem motionStep_motorStep {s : State} (motion : s.c1.phase = .motion) : MotorStep s (motionStep s) := by
  have chan : s.chan = if s.c1.phase = .poll then none else s.chan := by rw [motion]; rfl
  obtain ⟨-, h⟩ | ⟨-, -, h⟩ | ⟨-, -, h⟩ := motionStep_cases s
  all_goals
    rw [h]
    exact ⟨rfl, rfl, ⟨rfl, rfl⟩, chan, .inl rfl, List.prefix_rfl, List.prefix_rfl,
      ⟨[], .of_same rfl rfl, fun _ => rfl⟩, fun _ => rfl, fun h => absurd rfl h, fun h => absurd rfl h⟩

/-- The end of a pulse only puts into an empty `fb` and only appends to the drop log (44_stepping.md R277). -/
theorem endOfPulse_reports (s : State) :
    ((endOfPulse s).fb = s.fb ∨ s.fb = none) ∧ s.dropLog <+: (endOfPulse s).dropLog := by
  obtain ⟨-, h⟩ | ⟨-, -, h⟩ | ⟨-, -, h⟩ := endOfPulse_cases s
  · rw [h]; exact ⟨.inl rfl, List.prefix_rfl⟩
  · cases fb : s.fb with
    | none => rw [h, reportIntermediate_of_fb_empty fb]; exact ⟨.inr rfl, List.prefix_rfl⟩
    | some w => rw [h, reportIntermediate_of_fb_full fb, ← fb]; exact ⟨.inl rfl, List.prefix_append _ _⟩
  · rw [h]; exact ⟨.inl rfl, List.prefix_rfl⟩

theorem pulseStep_motorStep {s : State} (pulsing : s.c1.phase = .pulsing) : MotorStep s (pulseStep s) := by
  have chan : s.chan = if s.c1.phase = .poll then none else s.chan := by rw [pulsing]; rfl
  have notPoll : s.c1.phase ≠ .poll := by rw [pulsing]; nofun
  cases defect : directionDefect s.motor with
  | true =>
    rw [pulseStep_of_defect defect]
    exact ⟨rfl, rfl, ⟨rfl, rfl⟩, chan, .inl rfl, List.prefix_rfl, List.prefix_append _ _,
      ⟨[], .of_same rfl rfl, fun _ => rfl⟩, fun _ => rfl, fun h => absurd rfl h, fun h => absurd rfl h⟩
  | false =>
    rw [pulseStep_of_consistent defect]
    have reports := endOfPulse_reports (pulseRegisters (stepPulse s))
    rw [endOfPulse_frame] at reports ⊢
    obtain ⟨fb, dropLog⟩ := reports
    exact ⟨rfl, rfl, ⟨rfl, rfl⟩, chan, fb.imp_right fun empty => ⟨notPoll, empty⟩, dropLog, List.prefix_rfl,
      ⟨_, (drives_stepPulse s).congr ⟨rfl, rfl⟩ ⟨rfl, rfl⟩, fun _ => rfl⟩, fun _ => rfl, fun _ => .inl pulsing,
      fun h => absurd rfl h⟩

theorem finalReportStep_motorStep {s : State} (finalReport : s.c1.phase = .finalReport) :
    MotorStep s (finalReportStep s) := by
  have chan : s.chan = if s.c1.phase = .poll then none else s.chan := by rw [finalReport]; rfl
  have notPoll : s.c1.phase ≠ .poll := by rw [finalReport]; nofun
  cases fb : s.fb with
  | none =>
    rw [finalReportStep_of_fb_empty fb]
    exact ⟨rfl, rfl, ⟨rfl, rfl⟩, chan, .inr ⟨notPoll, fb⟩, List.prefix_rfl, List.prefix_rfl,
      ⟨[], .of_same rfl rfl, fun _ => rfl⟩, fun _ => rfl, fun h => absurd rfl h, fun h => absurd rfl h⟩
  | some w =>
    rw [finalReportStep_of_fb_full fb]
    exact ⟨rfl, rfl, ⟨rfl, rfl⟩, chan, .inl rfl, List.prefix_rfl, List.prefix_rfl,
      ⟨[], .of_same rfl rfl, fun _ => rfl⟩, fun _ => rfl, fun h => absurd rfl h, fun h => absurd rfl h⟩

theorem c1Step_motorStep {s u : State} (h : c1Step s = .next u) : MotorStep s u := by
  obtain ⟨phase, rfl⟩ | ⟨phase, rfl⟩ | ⟨phase, h⟩ | ⟨phase, rfl⟩ | ⟨phase, rfl⟩ | ⟨phase, rfl⟩ := c1Step_cases h
  · exact overrideStep_motorStep phase
  · exact imagingStep_motorStep phase
  · exact pollStep_motorStep phase h
  · exact motionStep_motorStep phase
  · exact pulseStep_motorStep phase
  · exact finalReportStep_motorStep phase

/-! ## IRQ -/

/-- What IRQ's step leaves unchanged, and the one pin it may drive (60_exceptions.md R406; 44_stepping.md R279). -/
structure AlarmStep (s u : State) : Prop where
  cfg : u.cfg = s.cfg
  env : u.env = s.env
  hostSide : SameHostSide s u
  motor : u.motor = s.motor
  c1 : u.c1 = s.c1
  chan : u.chan = s.chan
  fb : u.fb = s.fb
  dropLog : u.dropLog = s.dropLog
  faults : u.faults = s.faults
  started : u.imaging.started = s.imaging.started
  shutterOpen : u.imaging.shutterOpen = s.imaging.shutterOpen
  pins : (u.pins = s.pins ∧ u.pinTrace = s.pinTrace) ∨
    (u.pins = { s.pins with stop := true } ∧ u.pinTrace = s.pinTrace ++ [.pin .stop true])

theorem fireStep_alarmStep (s : State) : AlarmStep s (fireStep s) := by
  by_cases empty : s.alarms = []
  · rw [fireStep_of_none empty]
    exact ⟨rfl, rfl, ⟨rfl, rfl⟩, rfl, rfl, rfl, rfl, rfl, rfl, rfl, rfl, .inl ⟨rfl, rfl⟩⟩
  · obtain ⟨a, fires⟩ := exists_firing empty
    obtain ⟨cooldown, session⟩ := fireStep_spec fires
    by_cases kind : a.kind = .cooldown
    · rw [cooldown kind]
      exact ⟨rfl, rfl, ⟨rfl, rfl⟩, rfl, rfl, rfl, rfl, rfl, rfl, rfl, rfl, .inr ⟨rfl, rfl⟩⟩
    · rw [session kind]
      exact ⟨rfl, rfl, ⟨rfl, rfl⟩, rfl, rfl, rfl, rfl, rfl, rfl, rfl, rfl, .inl ⟨rfl, rfl⟩⟩

theorem AlarmStep.drives {s u : State} (h : AlarmStep s u) : ∃ events, Drives s u events ∧ irHighs events = 0 := by
  obtain ⟨pins, trace⟩ | ⟨pins, trace⟩ := h.pins
  · exact ⟨_, .of_same pins trace, rfl⟩
  · exact ⟨_, (drives_setPin .stop true s).congr ⟨rfl, rfl⟩ ⟨pins, trace⟩, rfl⟩

/-! ## A step of the block -/

/-- A step is one agent's, from a state without a Defect, and then the next turn (00_scope.md R5). -/
theorem step_cases {s t : State} (h : step s = .next t) : s.faults = [] ∧ ∃ u, advance u = t ∧
    ((s.env.turn.agent = .c0 ∧ c0Step s = .next u ∧ HostStep s u) ∨
      (s.env.turn.agent = .c1 ∧ c1Step s = .next u ∧ MotorStep s u) ∨
      (s.env.turn.agent = .irq ∧ fireStep s = u ∧ AlarmStep s u)) := by
  obtain ⟨noFault, u, hu, turn⟩ := step_eq_next.1 h
  refine ⟨noFault, u, turn, ?_⟩
  obtain ⟨agent, h⟩ | ⟨agent, h⟩ | ⟨agent, h⟩ := agentStep_cases hu
  · exact .inl ⟨agent, h, c0Step_hostStep h⟩
  · exact .inr (.inl ⟨agent, h, c1Step_motorStep h⟩)
  · exact .inr (.inr ⟨agent, h, h ▸ fireStep_alarmStep s⟩)

/-- Every step drives the pins by the events that it traces (20_memory.md R71). -/
theorem step_drives {s t : State} (h : step s = .next t) : ∃ events, Drives s t events := by
  obtain ⟨-, u, rfl, ⟨-, -, host⟩ | ⟨-, -, motor⟩ | ⟨-, -, alarm⟩⟩ := step_cases h
  · obtain ⟨-, -, -, pins, -, trace, -⟩ := host.motorSide
    exact ⟨[], .of_same pins trace⟩
  · obtain ⟨events, drives, -⟩ := motor.drives
    exact ⟨events, drives.congr ⟨rfl, rfl⟩ ⟨rfl, rfl⟩⟩
  · obtain ⟨events, drives, -⟩ := alarm.drives
    exact ⟨events, drives.congr ⟨rfl, rfl⟩ ⟨rfl, rfl⟩⟩

theorem step_cfg {s t : State} (h : step s = .next t) : t.cfg = s.cfg := by
  obtain ⟨-, u, rfl, ⟨-, -, host⟩ | ⟨-, -, motor⟩ | ⟨-, -, alarm⟩⟩ := step_cases h
  · exact host.cfg
  · exact motor.cfg
  · exact alarm.cfg

/-! ## The obligations -/

/-- Settles O53: each agent's step by what it leaves unchanged. -/
theorem agentsWriteOnlyTheirOwn : Obligations.AgentsWriteOnlyTheirOwn := by
  intro s t h
  obtain ⟨-, u, rfl, ⟨agent, -, host⟩ | ⟨agent, -, motor⟩ | ⟨agent, -, alarm⟩⟩ := step_cases h
  · rw [agent]
    exact ⟨fun _ => ⟨host.motorSide, host.chan, host.fb⟩, nofun, nofun, nofun⟩
  · rw [agent]
    refine ⟨nofun, fun _ phase => ?c1, fun _ poll => ?poll, nofun⟩
    case c1 => exact ⟨motor.hostSide, motor.chan.trans (if_neg phase), motor.fb.imp_right And.right⟩
    case poll =>
      exact ⟨motor.hostSide, motor.chan.trans (if_pos poll), motor.fb.resolve_right fun h => h.1 poll⟩
  · rw [agent]
    refine ⟨nofun, nofun, nofun, fun _ => ⟨alarm.hostSide, alarm.motor, alarm.c1, alarm.chan, alarm.fb, alarm.dropLog,
      alarm.faults, alarm.started, alarm.shutterOpen, ?pins⟩⟩
    case pins => obtain ⟨pins, trace⟩ | ⟨pins, trace⟩ := alarm.pins <;> simp [pins, trace]

/-- Settles O56: the traces by the events and characters that a step appends. -/
theorem tracesOnlyGrowAndConfigStays : Obligations.TracesOnlyGrowAndConfigStays := by
  intro s t h
  have cfg := step_cfg h
  obtain ⟨events, drives⟩ := step_drives h
  have trace : s.pinTrace <+: t.pinTrace := drives.trace ▸ List.prefix_append _ _
  obtain ⟨-, u, rfl, ⟨-, -, host⟩ | ⟨-, -, motor⟩ | ⟨-, -, alarm⟩⟩ := step_cases h
  · obtain ⟨-, -, -, -, -, -, faults⟩ := host.motorSide
    exact ⟨host.hostOut, trace, host.dropLog, by rw [advance_faults, faults], cfg⟩
  · exact ⟨by rw [advance_hostOut, motor.hostSide.2], trace, motor.dropLog, motor.faults, cfg⟩
  · exact ⟨by rw [advance_hostOut, alarm.hostSide.2], trace, by rw [advance_dropLog, alarm.dropLog],
      by rw [advance_faults, alarm.faults], cfg⟩

/-- Settles O57: the levels before the step by the trace before it, then by the step's own events. -/
theorem stepKeepsPinsFollowingTrace : Obligations.StepKeepsPinsFollowingTrace := by
  intro s t follow h id
  obtain ⟨events, drives⟩ := step_drives h
  rw [drives.levels, follow, drives.trace, step_cfg h, tracedLevel_append]

/-- Settles O58: the three only-writer facts of the agents' steps. -/
theorem onlyTheirRulesWritePositions : Obligations.OnlyTheirRulesWritePositions := by
  intro s t h
  obtain ⟨-, u, rfl, ⟨agent, -, host⟩ | ⟨agent, -, motor⟩ | ⟨agent, -, alarm⟩⟩ := step_cases h
  · obtain ⟨same, -⟩ := host.motorSide
    exact ⟨fun moved => absurd (congrArg MotorState.currentPosition same) moved,
      fun moved => absurd (congrArg MotorState.targetPosition same) moved, fun answers => ⟨agent, host.answers answers⟩⟩
  · exact ⟨fun moved => ⟨agent, motor.position moved⟩, fun moved => ⟨agent, motor.target moved⟩,
      fun answers => absurd motor.hostSide.2 answers⟩
  · exact ⟨fun moved => absurd (congrArg MotorState.currentPosition alarm.motor) moved,
      fun moved => absurd (congrArg MotorState.targetPosition alarm.motor) moved,
      fun answers => absurd alarm.hostSide.2 answers⟩

/-! ## Clicks and the shutter -/

/-- Without a click and a turn of the shutter the parity stays. -/
theorem ClicksMatchShutter.congr {s u : State} (clicks : ClicksMatchShutter s) (cfg : u.cfg = s.cfg)
    (highs : irHighs u.pinTrace = irHighs s.pinTrace) (shutter : u.imaging.shutterOpen = s.imaging.shutterOpen) :
    ClicksMatchShutter u := by
  obtain ⟨n, count, parity⟩ := clicks
  exact ⟨n, by rw [highs, cfg, count], by rw [shutter, parity]⟩

/-- A click turns the shutter (46_intervalometer.md R322, R328). -/
theorem ClicksMatchShutter.click {s u : State} (clicks : ClicksMatchShutter s) (cfg : u.cfg = s.cfg)
    (highs : irHighs u.pinTrace = irHighs s.pinTrace + s.cfg.irBursts * s.cfg.irPulses)
    (shutter : u.imaging.shutterOpen = !s.imaging.shutterOpen) : ClicksMatchShutter u := by
  obtain ⟨n, count, parity⟩ := clicks
  refine ⟨n + 1, by rw [highs, cfg, count]; ring, ?_⟩
  cases h : s.imaging.shutterOpen <;> simp [shutter, h] at parity ⊢ <;> omega

theorem imagingStep_clicksMatchShutter {s : State} (clicks : ClicksMatchShutter s) :
    ClicksMatchShutter (imagingStep s) := by
  have cfg : (imagingStep s).cfg = s.cfg := by rw [imagingStep_frame]
  obtain ⟨drives, shutter⟩ | ⟨drives, shutter⟩ := imagingStep_drives s
  · exact clicks.congr cfg (by rw [drives.trace, List.append_nil]) shutter
  · exact clicks.click cfg (by rw [drives.trace, irHighs_append, irHighs_clickEvents]) shutter

/-- Settles O44: only the Imaging step clicks and turns the shutter, and it does both or neither. -/
theorem stepKeepsClicksMatchingShutter : Obligations.StepKeepsClicksMatchingShutter := by
  intro s t _ _ clicks h
  obtain ⟨-, u, rfl, ⟨-, -, host⟩ | ⟨-, runs, motor⟩ | ⟨-, -, alarm⟩⟩ := step_cases h
  · obtain ⟨-, -, imaging, -, -, trace, -⟩ := host.motorSide
    exact clicks.congr host.cfg (congrArg irHighs trace) (congrArg ImagingState.shutterOpen imaging)
  · by_cases imaging : s.c1.phase = .imaging
    · rw [c1Step_of_imaging imaging] at runs
      cases runs
      exact (imagingStep_clicksMatchShutter clicks).congr rfl rfl rfl
    · obtain ⟨events, drives, noClick⟩ := motor.drives
      refine clicks.congr motor.cfg ?_ (congrArg ImagingState.shutterOpen (motor.imaging imaging))
      rw [advance_pinTrace, drives.trace, irHighs_append, noClick imaging, Nat.add_zero]
  · obtain ⟨events, drives, noClick⟩ := alarm.drives
    refine clicks.congr alarm.cfg ?_ alarm.shutterOpen
    rw [advance_pinTrace, drives.trace, irHighs_append, noClick, Nat.add_zero]

end Sys2Proof.Machine
end

section
/-! What an agent's step cannot tell apart (20_memory.md section 6): C1 and IRQ do the same to the rest whatever C0's
registers are, and C0 whatever the motor side's registers are. Each step commutes with replacing them. -/

namespace Sys2Proof.Machine

/-- Where an agent's step commutes with a replacement that leaves the turns and the fault record alone, the block's step
does. -/
theorem step_commutes {f : State → State} {s t : State} (faults : (f s).faults = s.faults)
    (turn : ∀ u, advance (f u) = f (advance u)) (agent : agentStep (f s) = thenDo (agentStep s) f)
    (h : step s = .next t) : step (f s) = .next (f t) := by
  obtain ⟨noFault, u, runs, rfl⟩ := step_eq_next.1 h
  exact step_eq_next.2 ⟨faults.trans noFault, f u, by rw [agent, runs, thenDo_next], turn u⟩

/-! ## C1 and IRQ beside C0's registers -/

/-- The state with C0's registers and the host output replaced. -/
def withHostSide (c0 : C0State) (out : List Byte) (s : State) : State := { s with c0 := c0, hostOut := out }

section
variable (c0 : C0State) (out : List Byte) (s : State)

theorem overrideMotion_withHostSide (inc dec : Bool) :
    overrideMotion inc dec (withHostSide c0 out s) = withHostSide c0 out (overrideMotion inc dec s) := by
  simp only [overrideMotion, apply_ite (withHostSide c0 out)]
  rfl

theorem overrideStep_withHostSide : overrideStep (withHostSide c0 out s) = withHostSide c0 out (overrideStep s) :=
  congrArg (fun u => atPhase .imaging (hold (s.cfg.settleMs * 1000) u)) (overrideMotion_withHostSide c0 out s _ _)

theorem irBurst_withHostSide (us n : Nat) :
    irBurst us n (withHostSide c0 out s) = withHostSide c0 out (irBurst us n s) := by
  induction n generalizing s with
  | zero => rfl
  | succ n ih => exact ih (irPulse us s)

theorem irBursts_withHostSide (pulses us gapUs n : Nat) :
    irBursts pulses us gapUs n (withHostSide c0 out s) = withHostSide c0 out (irBursts pulses us gapUs n s) := by
  induction n generalizing s with
  | zero => rfl
  | succ n ih =>
    cases n with
    | zero => exact irBurst_withHostSide c0 out s us pulses
    | succ n =>
      rw [irBursts, irBurst_withHostSide]
      exact ih (hold gapUs (irBurst us pulses s))

theorem serviceClick_withHostSide (sw : Bool) :
    serviceClick sw (withHostSide c0 out s) = withHostSide c0 out (serviceClick sw s) := by
  have click : fireClick (withHostSide c0 out s) = withHostSide c0 out (fireClick s) :=
    irBursts_withHostSide c0 out s _ _ _ _
  rw [serviceClick_eq, serviceClick_eq, click]
  rfl

theorem imagingStep_withHostSide : imagingStep (withHostSide c0 out s) = withHostSide c0 out (imagingStep s) := by
  cases built : s.cfg.hasIntervalometer with
  | false => rw [imagingStep_of_absent built, imagingStep_of_absent (s := withHostSide c0 out s) built]; rfl
  | true =>
    cases required : (armSession s.env.turn.imgSwitch s.imaging).clickRequired with
    | false => rw [imagingStep_of_no_click required, imagingStep_of_no_click (s := withHostSide c0 out s) required]; rfl
    | true =>
      rw [imagingStep_of_click built rfl required, imagingStep_of_click (s := withHostSide c0 out s) built rfl required]
      exact congrArg (atPhase .poll) (serviceClick_withHostSide c0 out (withImaging _ s) _)

theorem exec_request_withHostSide (r : MotionRequest) :
    exec (Instr.ofRequest r) (withHostSide c0 out s) = thenDo (exec (Instr.ofRequest r) s) (withHostSide c0 out) := by
  cases r with
  | target v => rfl
  | stop => rfl
  | recalibrate => rfl
  | go =>
    by_cases stepping : s.motor.mode = .stepping
    · exact (exec_go_of_stepping (s := withHostSide c0 out s) stepping).trans
        (congrArg (thenDo · (withHostSide c0 out)) (exec_go_of_stepping stepping)).symm
    · exact (exec_go_of_rest (s := withHostSide c0 out s) stepping).trans
        (congrArg (thenDo · (withHostSide c0 out)) (exec_go_of_rest stepping)).symm

theorem pollStep_withHostSide :
    pollStep (withHostSide c0 out s) = thenDo (pollStep s) (withHostSide c0 out) := by
  cases chan : s.chan with
  | none => rw [pollStep_of_chan_empty chan, pollStep_of_chan_empty (s := withHostSide c0 out s) chan]; rfl
  | some w =>
    rw [pollStep_of_chan_full chan, pollStep_of_chan_full (s := withHostSide c0 out s) chan]
    exact exec_request_withHostSide c0 out { s with chan := none, c1 := { s.c1 with phase := .motion } } _

theorem motionStep_withHostSide : motionStep (withHostSide c0 out s) = withHostSide c0 out (motionStep s) := by
  simp only [motionStep, apply_ite (withHostSide c0 out)]
  rfl

theorem reportIntermediate_withHostSide :
    reportIntermediate (withHostSide c0 out s) = withHostSide c0 out (reportIntermediate s) := by
  cases fb : s.fb with
  | none =>
    rw [reportIntermediate_of_fb_empty fb, reportIntermediate_of_fb_empty (s := withHostSide c0 out s) fb]
    rfl
  | some w =>
    rw [reportIntermediate_of_fb_full fb, reportIntermediate_of_fb_full (s := withHostSide c0 out s) fb]
    rfl

theorem endOfPulse_withHostSide : endOfPulse (withHostSide c0 out s) = withHostSide c0 out (endOfPulse s) := by
  simp only [endOfPulse, reportIntermediate_withHostSide, apply_ite (withHostSide c0 out)]
  rfl

theorem pulseStep_withHostSide : pulseStep (withHostSide c0 out s) = withHostSide c0 out (pulseStep s) := by
  simp only [pulseStep, apply_ite (withHostSide c0 out), ← endOfPulse_withHostSide]
  rfl

theorem finalReportStep_withHostSide :
    finalReportStep (withHostSide c0 out s) = withHostSide c0 out (finalReportStep s) := by
  simp only [finalReportStep, apply_ite (withHostSide c0 out)]
  rfl

theorem c1Step_withHostSide : c1Step (withHostSide c0 out s) = thenDo (c1Step s) (withHostSide c0 out) := by
  have phaseKept : (withHostSide c0 out s).c1.phase = s.c1.phase := rfl
  cases phase : s.c1.phase with
  | override => simp only [c1Step, phaseKept, phase, overrideStep_withHostSide, thenDo_next]
  | imaging => simp only [c1Step, phaseKept, phase, imagingStep_withHostSide, thenDo_next]
  | poll => simp only [c1Step, phaseKept, phase, pollStep_withHostSide]
  | motion => simp only [c1Step, phaseKept, phase, motionStep_withHostSide, thenDo_next]
  | pulsing => simp only [c1Step, phaseKept, phase, pulseStep_withHostSide, thenDo_next]
  | finalReport => simp only [c1Step, phaseKept, phase, finalReportStep_withHostSide, thenDo_next]

theorem fireStep_withHostSide : fireStep (withHostSide c0 out s) = withHostSide c0 out (fireStep s) := by
  by_cases empty : s.alarms = []
  · rw [fireStep_of_none empty, fireStep_of_none (s := withHostSide c0 out s) empty]
  · obtain ⟨a, fires⟩ := exists_firing empty
    rw [fireStep_of_armed fires, fireStep_of_armed (s := withHostSide c0 out s) fires]
    cases a.kind <;> rfl

end

/-- Settles O54: C1's and IRQ's step commute with replacing C0's registers. -/
theorem motorSideIgnoresHostRegisters : Obligations.MotorSideIgnoresHostRegisters := by
  intro s t c0 out notC0 h
  refine step_commutes (f := withHostSide c0 out) rfl (fun _ => rfl) ?_ h
  have turn : (withHostSide c0 out s).env.turn.agent = s.env.turn.agent := rfl
  cases agent : s.env.turn.agent with
  | c0 => exact absurd agent notC0
  | c1 => simp only [agentStep, turn, agent, c1Step_withHostSide]
  | irq => simp only [agentStep, turn, agent, fireStep_withHostSide, thenDo_next]

/-! ## C0 beside the motor side's registers -/

/-- The state with the motor, sequencer and intervalometer registers replaced. -/
def withMotorSide (m : MotorState) (q : C1State) (g : ImagingState) (s : State) : State :=
  { s with motor := m, c1 := q, imaging := g }

section
variable (m : MotorState) (q : C1State) (g : ImagingState) (s : State)

theorem exec_host_withMotorSide {i : Instr} (verb : ∀ r, i ≠ Instr.ofRequest r) :
    exec i (withMotorSide m q g s) = thenDo (exec i s) (withMotorSide m q g) := by
  cases i with
  | target v => exact absurd rfl (verb (.target v))
  | stop => exact absurd rfl (verb .stop)
  | go => exact absurd rfl (verb .go)
  | recalibrate => exact absurd rfl (verb .recalibrate)
  | _ => rfl

theorem processChar_withMotorSide (ch : Byte) :
    processChar ch (withMotorSide m q g s) = thenDo (processChar ch s) (withMotorSide m q g) := by
  cases feed : codecFeed s.cfg.bufCap s.c0.codec ch with
  | mk k completed =>
    cases completed with
    | none => rw [processChar_of_none feed, processChar_of_none (s := withMotorSide m q g s) feed]; rfl
    | some buf =>
      rw [processChar_of_some feed, processChar_of_some (s := withMotorSide m q g s) feed]
      exact exec_host_withMotorSide m q g { s with c0 := { s.c0 with codec := k } } (decodeBuffer_ne_request _ _)

theorem getCharStep_withMotorSide :
    getCharStep (withMotorSide m q g s) = thenDo (getCharStep s) (withMotorSide m q g) := by
  cases char : s.env.turn.char with
  | none => rw [getCharStep_of_none char, getCharStep_of_none (s := withMotorSide m q g s) char]; rfl
  | some ch =>
    rw [getCharStep_of_some char, getCharStep_of_some (s := withMotorSide m q g s) char, processChar_withMotorSide,
      thenDo_thenDo, thenDo_thenDo]
    rfl

theorem sendFailed_withMotorSide (w : Word32) :
    sendFailed w (withMotorSide m q g s) = withMotorSide m q g (sendFailed w s) := by
  simp only [sendFailed, apply_ite (withMotorSide m q g)]
  rfl

theorem sendingStep_withMotorSide :
    sendingStep (withMotorSide m q g s) = withMotorSide m q g (sendingStep s) := by
  cases pending : s.c0.pendingSend with
  | none => simp only [sendingStep, withMotorSide, pending]
  | some w =>
    cases chan : s.chan with
    | none =>
      rw [sendingStep_of_chan_empty pending chan,
        sendingStep_of_chan_empty (s := withMotorSide m q g s) pending chan]
      rfl
    | some held =>
      rw [sendingStep_of_chan_full pending chan,
        sendingStep_of_chan_full (s := withMotorSide m q g s) pending chan, sendFailed_withMotorSide]

theorem pollFeedbackStep_withMotorSide :
    pollFeedbackStep (withMotorSide m q g s) = withMotorSide m q g (pollFeedbackStep s) := by
  cases fb : s.fb with
  | none =>
    rw [pollFeedbackStep_of_fb_empty fb, pollFeedbackStep_of_fb_empty (s := withMotorSide m q g s) fb]
    rfl
  | some w =>
    rw [pollFeedbackStep_of_fb_full fb, pollFeedbackStep_of_fb_full (s := withMotorSide m q g s) fb]
    rfl

theorem c0Step_withMotorSide :
    c0Step (withMotorSide m q g s) = thenDo (c0Step s) (withMotorSide m q g) := by
  have phaseKept : (withMotorSide m q g s).c0.phase = s.c0.phase := rfl
  cases phase : s.c0.phase with
  | getChar => simp only [c0Step, phaseKept, phase, getCharStep_withMotorSide]
  | sending => simp only [c0Step, phaseKept, phase, sendingStep_withMotorSide, thenDo_next]
  | pollFeedback => simp only [c0Step, phaseKept, phase, pollFeedbackStep_withMotorSide, thenDo_next]

end

/-- Settles O55: C0's step commutes with replacing the motor side's registers. -/
theorem hostSideIgnoresMotorRegisters : Obligations.HostSideIgnoresMotorRegisters := by
  intro s t m q g c0 h
  refine step_commutes (f := withMotorSide m q g) rfl (fun _ => rfl) ?_ h
  have turn : (withMotorSide m q g s).env.turn.agent = s.env.turn.agent := rfl
  simp only [agentStep, turn, c0, c0Step_withMotorSide]

end Sys2Proof.Machine
end

section
/-! The motor engine in motion and at rest: the two ways in which it meets the invariant (10_state.md R46), and what a
start, a pulse and an end of a motion make of it. -/

namespace Sys2Proof.Machine

/-! ## Moving and resting -/

/-- The interval lies on the ramp's grid (10_state.md R25). -/
def OnRamp (c : Config) (interval : Word32) : Prop :=
  c.rampFloorMs.toNat ≤ interval.toNat ∧ interval.toNat ≤ c.rampMaxMs.toNat ∧
    (interval.toNat - c.rampFloorMs.toNat) % c.rampStepMs.toNat = 0

/-- The registers of an engine under way (10_state.md R46 item 3). -/
structure Moving (c : Config) (m : MotorState) : Prop where
  stepping : m.mode = .stepping
  stepsLeft : m.stepsRemaining.toNat = distance m.targetPosition m.currentPosition
  heads : m.currentPosition ≠ m.targetPosition →
    (m.direction = .forward ↔ m.currentPosition.toNat < m.targetPosition.toNat)
  onRamp : OnRamp c m.stepIntervalMs

/-- The registers of an engine at rest (10_state.md R46 item 2). -/
structure Resting (c : Config) (m : MotorState) : Prop where
  idle : m.mode = .idle
  atTarget : m.currentPosition = m.targetPosition
  noSteps : m.stepsRemaining = 0
  onRamp : OnRamp c m.stepIntervalMs

theorem MotorInv.moving {s : State} (inv : MotorInv s) (stepping : s.motor.mode = .stepping) : Moving s.cfg s.motor :=
  ⟨stepping, inv.stepsLeft stepping, inv.headsForTarget stepping, inv.intervalOnRamp⟩

theorem MotorInv.resting {s : State} (inv : MotorInv s) (idle : s.motor.mode = .idle) : Resting s.cfg s.motor :=
  ⟨idle, (inv.idleAtTarget idle).1, (inv.idleAtTarget idle).2, inv.intervalOnRamp⟩

/-- Stopped is never entered (10_state.md R46 item 1). -/
theorem MotorInv.moving_or_resting {s : State} (inv : MotorInv s) :
    Moving s.cfg s.motor ∨ Resting s.cfg s.motor := by
  cases mode : s.motor.mode with
  | stepping => exact .inl (inv.moving mode)
  | idle => exact .inr (inv.resting mode)
  | stopped => exact absurd mode inv.neverStopped

/-- An engine under way meets the invariant where C1's sequencer agrees: with no steps to go it is before its Motion step,
and C1 pulses only in a batch that is not full. -/
theorem motorInv_of_moving {s : State} (moving : Moving s.cfg s.motor) (batch : s.c1.batchCount ≤ s.cfg.batchSize)
    (zeroMove : s.motor.currentPosition = s.motor.targetPosition →
      s.c1.phase = .imaging ∨ s.c1.phase = .poll ∨ s.c1.phase = .motion)
    (pulsing : s.c1.phase = .pulsing → s.c1.batchCount < s.cfg.batchSize) (notFinal : s.c1.phase ≠ .finalReport) :
    MotorInv s where
  neverStopped := by rw [moving.stepping]; nofun
  idleAtTarget idle := by rw [moving.stepping] at idle; cases idle
  stepsLeft _ := moving.stepsLeft
  headsForTarget _ := moving.heads
  zeroMoveIsTransient _ := zeroMove
  intervalOnRamp := moving.onRamp
  batchBounded := batch
  pulsingInBatch phase := ⟨moving.stepping, pulsing phase⟩
  finalReportOfEnd phase := absurd phase notFinal

/-- An engine at rest meets the invariant where C1 does not pulse, and holds in FinalReport the report of its position. -/
theorem motorInv_of_resting {s : State} (resting : Resting s.cfg s.motor) (batch : s.c1.batchCount ≤ s.cfg.batchSize)
    (notPulsing : s.c1.phase ≠ .pulsing) (final : s.c1.phase = .finalReport → s.c1.pendingFinal = fbWord s) :
    MotorInv s where
  neverStopped := by rw [resting.idle]; nofun
  idleAtTarget _ := ⟨resting.atTarget, resting.noSteps⟩
  stepsLeft stepping := by rw [resting.idle] at stepping; cases stepping
  headsForTarget stepping := by rw [resting.idle] at stepping; cases stepping
  zeroMoveIsTransient stepping := by rw [resting.idle] at stepping; cases stepping
  intervalOnRamp := resting.onRamp
  batchBounded := batch
  pulsingInBatch phase := absurd phase notPulsing
  finalReportOfEnd phase := ⟨resting.idle, final phase⟩

/-! ## The ramp -/

theorem onRamp_rampMaxMs {c : Config} (wellFormed : c.wellFormed = true) : OnRamp c c.rampMaxMs := by
  obtain ⟨_, _, _, floorLe, grid, _⟩ := (wellFormed_iff c).1 wellFormed
  exact ⟨floorLe, le_rfl, grid⟩

theorem onRamp_iff {c : Config} {interval : Word32} : OnRamp c interval ↔
    interval.toNat ≤ c.rampMaxMs.toNat ∧ ∃ j, interval.toNat = c.rampFloorMs.toNat + j * c.rampStepMs.toNat := by
  constructor
  · rintro ⟨floorLe, leMax, grid⟩
    obtain ⟨j, hj⟩ := Nat.dvd_of_mod_eq_zero grid
    exact ⟨leMax, j, by rw [Nat.mul_comm j]; omega⟩
  · rintro ⟨leMax, j, hj⟩
    exact ⟨by omega, leMax, by rw [hj, Nat.add_sub_cancel_left, Nat.mul_mod_left]⟩

/-- The ramp keeps the interval on its grid (44_stepping.md R276). -/
theorem onRamp_rampInterval {c : Config} {interval : Word32} (wellFormed : c.wellFormed = true)
    (onRamp : OnRamp c interval) : OnRamp c (rampInterval c.rampFloorMs c.rampStepMs interval) := by
  obtain ⟨_, _, positive, _⟩ := (wellFormed_iff c).1 wellFormed
  obtain ⟨leMax, j, hj⟩ := onRamp_iff.1 onRamp
  have ramped := rampInterval_toNat positive hj
  have shorter : (j - 1) * c.rampStepMs.toNat ≤ j * c.rampStepMs.toNat := Nat.mul_le_mul_right _ (Nat.sub_le _ _)
  exact onRamp_iff.2 ⟨by omega, j - 1, ramped⟩

/-! ## Start, pulse and end -/

theorem moving_motorStarted {c : Config} (wellFormed : c.wellFormed = true) (t : Position) (m : MotorState) :
    Moving c (motorStarted c.rampMaxMs t m) where
  stepping := rfl
  stepsLeft := motorStarted_stepsRemaining_toNat _ _ _
  heads away := directionToward_eq_forward_iff away _
  onRamp := onRamp_rampMaxMs wellFormed

/-- The motor registers after a pulse (44_stepping.md R275, R276). -/
def pulsedMotor (c : Config) (m : MotorState) : MotorState := { m with
  currentPosition := pulsedPosition m.direction m.currentPosition
  stepsRemaining := m.stepsRemaining - 1
  stepIntervalMs := rampInterval c.rampFloorMs c.rampStepMs m.stepIntervalMs }

/-- Away from its target an engine under way heads for it: there is no Defect (44_stepping.md R283). -/
theorem Moving.consistent {c : Config} {m : MotorState} (moving : Moving c m)
    (away : m.currentPosition ≠ m.targetPosition) : directionDefect m = false := by
  have heads := moving.heads away
  have apart : m.currentPosition.toNat ≠ m.targetPosition.toNat := fun h => away (BitVec.eq_of_toNat_eq h)
  rw [Bool.eq_false_iff, Ne, directionDefect_iff]
  rintro (⟨forward, above⟩ | ⟨reverse, below⟩)
  · exact absurd (heads.1 forward) (Nat.not_lt.2 above)
  · rw [heads.2 (lt_of_le_of_ne below apart)] at reverse
    cases reverse

/-- A pulse brings the engine one step nearer, still heading for its target (44_stepping.md R275, R283). -/
theorem Moving.pulsed {c : Config} {m : MotorState} (wellFormed : c.wellFormed = true) (moving : Moving c m)
    (away : m.currentPosition ≠ m.targetPosition) : Moving c (pulsedMotor c m) ∧
      distance m.targetPosition (pulsedPosition m.direction m.currentPosition) + 1 =
        distance m.targetPosition m.currentPosition := by
  have heads := moving.heads away
  have stepsLeft := moving.stepsLeft
  have onRamp := onRamp_rampInterval wellFormed moving.onRamp
  have apart : m.currentPosition.toNat ≠ m.targetPosition.toNat := fun h => away (BitVec.eq_of_toNat_eq h)
  obtain ⟨nearer, heads'⟩ : distance m.targetPosition (pulsedPosition m.direction m.currentPosition) + 1 =
      distance m.targetPosition m.currentPosition ∧
      (pulsedPosition m.direction m.currentPosition ≠ m.targetPosition → (m.direction = .forward ↔
        (pulsedPosition m.direction m.currentPosition).toNat < m.targetPosition.toNat)) := by
    cases direction : m.direction with
    | forward =>
      have below := heads.1 direction
      have moved := pulsedPosition_forward_toNat below
      refine ⟨by rw [distance, distance, if_pos (by omega), if_pos below.le]; omega, fun still => ?_⟩
      have : (pulsedPosition .forward m.currentPosition).toNat ≠ m.targetPosition.toNat :=
        fun h => still (BitVec.eq_of_toNat_eq h)
      exact ⟨fun _ => by omega, fun _ => rfl⟩
    | reverse =>
      have above : m.targetPosition.toNat < m.currentPosition.toNat := by
        by_contra notAbove
        have := heads.2 (by omega)
        rw [direction] at this
        cases this
      have moved := pulsedPosition_reverse_toNat above
      refine ⟨?_, fun _ => ⟨nofun, fun below => by omega⟩⟩
      rw [distance_of_gt above]
      unfold distance
      split <;> omega
  refine ⟨⟨moving.stepping, ?_, heads', onRamp⟩, nearer⟩
  have one : (1 : Word32).toNat = 1 := rfl
  have counted : (m.stepsRemaining - 1).toNat = m.stepsRemaining.toNat - 1 :=
    BitVec.toNat_sub_of_le (BitVec.le_def.mpr (by omega))
  change (m.stepsRemaining - 1).toNat = distance m.targetPosition (pulsedPosition m.direction m.currentPosition)
  omega

/-- An engine that has reached its target has no steps left (44_stepping.md R278). -/
theorem Moving.ended {c : Config} {m : MotorState} (moving : Moving c m)
    (atTarget : m.currentPosition = m.targetPosition) : Resting c { m with mode := .idle } where
  idle := rfl
  atTarget := atTarget
  noSteps := by
    have noneLeft := moving.stepsLeft
    rw [atTarget, distance_self] at noneLeft
    exact BitVec.eq_of_toNat_eq noneLeft
  onRamp := moving.onRamp

/-- A Stop ends a motion where the engine stands (43_motion_requests.md R244). -/
theorem resting_stopped {c : Config} {m : MotorState} (onRamp : OnRamp c m.stepIntervalMs) :
    Resting c { m with mode := .idle, targetPosition := m.currentPosition, stepsRemaining := 0 } :=
  ⟨rfl, rfl, rfl, onRamp⟩

end Sys2Proof.Machine
end

section
/-! Every step keeps the invariant (10_state.md section 3): its parts depend on few fields each, each agent's step keeps
them, and so no run stops. -/

namespace Sys2Proof.Machine

/-! ## Which fields each part depends on -/

theorem MotorInv.congr {s t : State} (inv : MotorInv s) (motor : t.motor = s.motor) (c1 : t.c1 = s.c1)
    (cfg : t.cfg = s.cfg) : MotorInv t := by
  have report : fbWord t = fbWord s := by rw [fbWord, motor, fbWord]
  exact {
    neverStopped := by rw [motor]; exact inv.neverStopped
    idleAtTarget := by rw [motor]; exact inv.idleAtTarget
    stepsLeft := by rw [motor]; exact inv.stepsLeft
    headsForTarget := by rw [motor]; exact inv.headsForTarget
    zeroMoveIsTransient := by rw [motor, c1]; exact inv.zeroMoveIsTransient
    intervalOnRamp := by rw [motor, cfg]; exact inv.intervalOnRamp
    batchBounded := by rw [c1, cfg]; exact inv.batchBounded
    pulsingInBatch := by rw [motor, c1, cfg]; exact inv.pulsingInBatch
    finalReportOfEnd := by rw [motor, c1, report]; exact inv.finalReportOfEnd }

theorem ImagingInv.congr {s t : State} (inv : ImagingInv s) (imaging : t.imaging = s.imaging)
    (armed : imagingAlarms t.alarms = imagingAlarms s.alarms) (cfg : t.cfg = s.cfg) : ImagingInv t := by
  constructor
  all_goals rw [imaging]
  · rw [cfg]; exact inv.absent
  · rw [armed]; exact inv.noSession
  · rw [armed]; exact inv.session

theorem AlarmInv.congr {s t : State} (inv : AlarmInv s) (alarms : t.alarms = s.alarms) (cfg : t.cfg = s.cfg) :
    AlarmInv t :=
  ⟨by rw [alarms]; exact inv.sorted, by rw [alarms, cfg]; exact inv.delays⟩

/-- Taking a word out of `chan` leaves C0's part of the invariant. -/
theorem HostInv.congr {s t : State} (inv : HostInv s) (c0 : t.c0 = s.c0) (chan : t.chan = s.chan ∨ t.chan = none)
    (cfg : t.cfg = s.cfg) : HostInv t := by
  constructor
  case chanCanonical =>
    intro w hw
    obtain same | empty := chan
    · exact inv.chanCanonical w (same ▸ hw)
    · rw [empty] at hw; cases hw
  all_goals rw [c0]
  · rw [cfg]; exact inv.bufferBounded
  · exact inv.bufferKept
  · exact inv.emptyOutside
  · exact inv.sendingIffPending
  · rw [cfg]; exact inv.attemptsBounded
  · exact inv.attemptsReset
  · exact inv.pendingCanonical

/-- Events that do not drive DIR do not start a motion (43_motion_requests.md R240). -/
theorem motionHasRun_of_append {s t : State} {events : List PinEvent} (trace : t.pinTrace = s.pinTrace ++ events)
    (noDir : ∀ level, PinEvent.pin .dir level ∉ events) (run : motionHasRun t) : motionHasRun s := by
  obtain ⟨level, mem⟩ := run
  rw [trace, List.mem_append] at mem
  exact ⟨level, mem.resolve_right (noDir level)⟩

/-- Where no motion starts or ends, the pins' part needs the pins, events without DIR, and no Cooldown fired. -/
theorem PinInv.congr {s t : State} (inv : PinInv s) (pins : t.pins = s.pins) (motor : t.motor = s.motor)
    {events : List PinEvent} (trace : t.pinTrace = s.pinTrace ++ events)
    (noDir : ∀ level, PinEvent.pin .dir level ∉ events) (armed : ∀ a ∈ s.alarms, a.kind = .cooldown → a ∈ t.alarms) :
    PinInv t where
  stepLow := by rw [pins]; exact inv.stepLow
  irLow := by rw [pins]; exact inv.irLow
  dirShown := by rw [pins, motor]; exact inv.dirShown
  stopComes idle run := by
    rw [motor] at idle
    rw [pins]
    obtain stop | ⟨a, mem, cooldown⟩ := inv.stopComes idle (motionHasRun_of_append trace noDir run)
    · exact .inl stop
    · exact .inr ⟨a, armed a mem cooldown, cooldown⟩

theorem PinInv.of_same {s t : State} (inv : PinInv s) (pins : t.pins = s.pins) (motor : t.motor = s.motor)
    (trace : t.pinTrace = s.pinTrace) (alarms : t.alarms = s.alarms) : PinInv t :=
  inv.congr pins motor (events := []) (by rw [trace, List.append_nil]) (by simp)
    (by rw [alarms]; exact fun _ mem _ => mem)

/-- A step of C1 that leaves the intervalometer, the alarms and C0 alone has the engine's and the pins' parts to keep. -/
theorem Inv.of_motor_pins {s t : State} (inv : Inv s) (motor : MotorInv t) (pins : PinInv t)
    (same : t.imaging = s.imaging ∧ t.alarms = s.alarms ∧ t.c0 = s.c0 ∧ t.cfg = s.cfg ∧ t.faults = s.faults)
    (chan : t.chan = s.chan ∨ t.chan = none) : Inv t := by
  obtain ⟨imaging, alarms, c0, cfg, faults⟩ := same
  exact {
    config := by rw [cfg]; exact inv.config
    table := by rw [cfg]; exact inv.table
    noFault := by rw [faults]; exact inv.noFault
    motor := motor
    imaging := inv.imaging.congr imaging (by rw [alarms]) cfg
    alarms := inv.alarms.congr alarms cfg
    host := inv.host.congr c0 chan cfg
    pins := pins }

/-- The environment's part of the state is not in the invariant. -/
theorem Inv.of_block_eq {s t : State} (inv : Inv s) (block : t.toBlockState = s.toBlockState) (cfg : t.cfg = s.cfg) :
    Inv t where
  config := by rw [cfg]; exact inv.config
  table := by rw [cfg]; exact inv.table
  noFault := by rw [block]; exact inv.noFault
  motor := inv.motor.congr (by rw [block]) (by rw [block]) cfg
  imaging := inv.imaging.congr (by rw [block]) (by rw [block]) cfg
  alarms := inv.alarms.congr (by rw [block]) cfg
  host := inv.host.congr (by rw [block]) (.inl (by rw [block])) cfg
  pins := inv.pins.of_same (by rw [block]) (by rw [block]) (by rw [block]) (by rw [block])

theorem inv_advance {s : State} (inv : Inv s) : Inv (advance s) := inv.of_block_eq rfl rfl

theorem inv_underTurn {s : State} (inv : Inv s) (t : Turn) : Inv (underTurn t s) := inv.of_block_eq rfl rfl

/-! ## C0's step -/

/-- A request that a verb records is a canonical word (30_encoding.md R98). -/
theorem canonicalRequest_encodeRequest (r : MotionRequest) : canonicalRequest (encodeRequest r) := by
  rw [canonicalRequest, decodeRequest_encodeRequest]

/-- Outside Sending nothing is pending (10_state.md R38). -/
theorem HostInv.pending_none {s : State} (inv : HostInv s) (notSending : s.c0.phase ≠ .sending) :
    s.c0.pendingSend = none := by
  by_contra pending
  exact notSending (inv.sendingIffPending.2 pending)

/-- The end of a GetChar step: the codec moved on by a character, and at most a new request was recorded. -/
theorem hostInv_leaveGetChar {s v : State} (inv : HostInv s) (cfg : v.cfg = s.cfg) (chan : v.chan = s.chan)
    (codec : v.c0.codec = s.c0.codec ∨ ∃ ch, v.c0.codec = (codecFeed s.cfg.bufCap s.c0.codec ch).1)
    (attempts : v.c0.sendAttempts = 0)
    (pending : v.c0.pendingSend = none ∨ ∃ r, v.c0.pendingSend = some (encodeRequest r)) :
    HostInv (leaveGetChar v) := by
  obtain ⟨bounded, kept, outside⟩ : v.c0.codec.rxBuf.length ≤ s.cfg.bufCap ∧
      (∀ b ∈ v.c0.codec.rxBuf, isDataChar b = true) ∧ (v.c0.codec.inFrame = false → v.c0.codec.rxBuf = []) := by
    obtain same | ⟨ch, fed⟩ := codec
    · rw [same]; exact ⟨inv.bufferBounded, inv.bufferKept, inv.emptyOutside⟩
    · rw [fed]; exact codecFeed_keeps ch inv.bufferBounded inv.bufferKept inv.emptyOutside
  refine ⟨by rw [leaveGetChar_cfg, cfg]; exact bounded, kept, outside, ?sending, ?attempts, fun _ => attempts, ?canonical,
    by rw [leaveGetChar_chan, chan]; exact inv.chanCanonical⟩
  case sending => cases h : v.c0.pendingSend <;> simp [h]
  case attempts =>
    change v.c0.sendAttempts < v.cfg.sendRetryLimit
    rw [attempts, cfg]
    exact Nat.zero_lt_of_lt inv.attemptsBounded
  case canonical =>
    intro w (hw : v.c0.pendingSend = some w)
    obtain idle | ⟨r, recorded⟩ := pending
    · rw [idle] at hw; cases hw
    · cases recorded.symm.trans hw
      exact canonicalRequest_encodeRequest r

theorem hostInv_getCharStep {s u : State} (inv : HostInv s) (getChar : s.c0.phase = .getChar)
    (h : getCharStep s = .next u) : HostInv u := by
  have idle : s.c0.pendingSend = none := inv.pending_none (by rw [getChar]; nofun)
  have noAttempts := inv.attemptsReset idle
  obtain ⟨_, rfl⟩ | ⟨ch, _, _, rfl⟩ | ⟨ch, buf, v, _, _, runs, rfl⟩ := getCharStep_cases h
  · exact hostInv_leaveGetChar inv rfl rfl (.inl rfl) noAttempts (.inl idle)
  · exact hostInv_leaveGetChar inv rfl rfl (.inr ⟨ch, rfl⟩) noAttempts (.inl idle)
  · obtain ⟨frame, -, codec, -, sends⟩ := exec_host_frame (decodeBuffer_ne_request _ _) runs
    have cfg : v.cfg = s.cfg := by rw [frame]
    have chan : v.chan = s.chan := by rw [frame]
    obtain ⟨pending, attempts⟩ | ⟨attempts, recorded⟩ := sends
    · exact hostInv_leaveGetChar inv cfg chan (.inr ⟨ch, codec⟩) (attempts.trans noAttempts) (.inl (pending.trans idle))
    · exact hostInv_leaveGetChar inv cfg chan (.inr ⟨ch, codec⟩) attempts (.inr recorded)

/-- A send that is over leaves nothing pending and no attempts (42_channel.md R211, R212). -/
theorem hostInv_sendDone {s v : State} (inv : HostInv s) (cfg : v.cfg = s.cfg) (codec : v.c0.codec = s.c0.codec)
    (chan : ∀ w, v.chan = some w → canonicalRequest w) : HostInv (sendDone v) where
  bufferBounded := by rw [sendDone_c0, sendDone_cfg, cfg]; exact codec ▸ inv.bufferBounded
  bufferKept := codec ▸ inv.bufferKept
  emptyOutside := codec ▸ inv.emptyOutside
  sendingIffPending := ⟨nofun, fun h => absurd rfl h⟩
  attemptsBounded := by rw [sendDone_cfg, cfg]; exact Nat.zero_lt_of_lt inv.attemptsBounded
  attemptsReset _ := rfl
  pendingCanonical := nofun
  chanCanonical := chan

theorem hostInv_sendingStep {s : State} (inv : HostInv s) (sending : s.c0.phase = .sending) :
    HostInv (sendingStep s) := by
  obtain ⟨w, pending⟩ := Option.ne_none_iff_exists'.1 (inv.sendingIffPending.1 sending)
  cases chan : s.chan with
  | none =>
    rw [sendingStep_of_chan_empty pending chan]
    refine hostInv_sendDone inv rfl rfl fun w' hw => ?_
    cases hw
    exact inv.pendingCanonical w pending
  | some held =>
    rw [sendingStep_of_chan_full pending chan]
    by_cases last : s.c0.sendAttempts + 1 = s.cfg.sendRetryLimit
    · rw [sendFailed_of_last last]
      exact hostInv_sendDone inv rfl rfl inv.chanCanonical
    · rw [sendFailed_of_not_last last]
      have attempts := inv.attemptsBounded
      exact ⟨inv.bufferBounded, inv.bufferKept, inv.emptyOutside, inv.sendingIffPending,
        by dsimp only; omega, fun noneArmed => absurd (pending.symm.trans noneArmed) nofun, inv.pendingCanonical,
        inv.chanCanonical⟩

theorem hostInv_pollFeedbackStep {s : State} (inv : HostInv s) (pollFeedback : s.c0.phase = .pollFeedback) :
    HostInv (pollFeedbackStep s) := by
  have idle : s.c0.pendingSend = none := inv.pending_none (by rw [pollFeedback]; nofun)
  have notSending : C0Phase.getChar = .sending ↔ s.c0.pendingSend ≠ none := ⟨nofun, fun h => absurd idle h⟩
  cases fb : s.fb with
  | none =>
    rw [pollFeedbackStep_of_fb_empty fb]
    exact ⟨inv.bufferBounded, inv.bufferKept, inv.emptyOutside, notSending, inv.attemptsBounded, inv.attemptsReset,
      inv.pendingCanonical, inv.chanCanonical⟩
  | some w =>
    rw [pollFeedbackStep_of_fb_full fb]
    exact ⟨inv.bufferBounded, inv.bufferKept, inv.emptyOutside, notSending, inv.attemptsBounded, inv.attemptsReset,
      inv.pendingCanonical, inv.chanCanonical⟩

theorem hostInv_c0Step {s u : State} (inv : HostInv s) (h : c0Step s = .next u) : HostInv u := by
  obtain ⟨getChar, h⟩ | ⟨sending, rfl⟩ | ⟨pollFeedback, rfl⟩ := c0Step_cases h
  · exact hostInv_getCharStep inv getChar h
  · exact hostInv_sendingStep inv sending
  · exact hostInv_pollFeedbackStep inv pollFeedback

theorem inv_c0Step {s u : State} (inv : Inv s) (h : c0Step s = .next u) : Inv u := by
  have host := c0Step_hostStep h
  obtain ⟨motor, c1, imaging, pins, alarms, trace, faults⟩ := host.motorSide
  exact {
    config := by rw [host.cfg]; exact inv.config
    table := by rw [host.cfg]; exact inv.table
    noFault := by rw [faults]; exact inv.noFault
    motor := inv.motor.congr motor c1 host.cfg
    imaging := inv.imaging.congr imaging (by rw [alarms]) host.cfg
    alarms := inv.alarms.congr alarms host.cfg
    host := hostInv_c0Step inv.host h
    pins := inv.pins.of_same pins motor trace alarms }

/-! ## Alarms that are armed and fire -/

/-- How many more Exposure and Pause alarms one alarm makes. -/
def imagingCount (kind : AlarmKind) : Nat := if kind = .cooldown then 0 else 1

theorem imagingAlarms_cons (a : Alarm) (as : List Alarm) :
    imagingAlarms (a :: as) = imagingAlarms as + imagingCount a.kind := by
  rw [imagingAlarms, List.countP_cons, imagingAlarms, imagingCount]
  cases a.kind <;> rfl

theorem imagingAlarms_perm {as bs : List Alarm} (perm : as.Perm bs) : imagingAlarms as = imagingAlarms bs :=
  perm.countP_eq _

@[simp] theorem imagingAlarms_insertAlarm (a : Alarm) (as : List Alarm) :
    imagingAlarms (insertAlarm a as) = imagingAlarms as + imagingCount a.kind := by
  rw [imagingAlarms_perm (insertAlarm_perm a as), imagingAlarms_cons]

/-- Each alarm is armed with its kind's delay (44_stepping.md R278; 46_intervalometer.md R322). -/
theorem AlarmInv.insert {s t : State} (inv : AlarmInv s) (kind : AlarmKind)
    (alarms : t.alarms = insertAlarm { kind := kind, delayMs := armedDelay s.cfg kind } s.alarms)
    (cfg : t.cfg = s.cfg) : AlarmInv t := by
  refine ⟨by rw [alarms]; exact alarmsSorted_insertAlarm inv.sorted _, fun a mem => ?_⟩
  rw [alarms, mem_insertAlarm] at mem
  rw [cfg]
  obtain rfl | mem := mem
  · rfl
  · exact inv.delays a mem

theorem fireStep_alarms_sublist (s : State) : (fireStep s).alarms.Sublist s.alarms := by
  by_cases empty : s.alarms = []
  · rw [fireStep_of_none empty]
  · obtain ⟨a, fires⟩ := exists_firing empty
    rw [fireStep_of_armed fires, runCallback_alarms]
    exact List.eraseIdx_sublist _ _

theorem alarmInv_fireStep {s : State} (inv : AlarmInv s) : AlarmInv (fireStep s) := by
  have sublist := fireStep_alarms_sublist s
  have cfg := (fireStep_alarmStep s).cfg
  have sorted := inv.sorted
  rw [alarmsSorted_iff_pairwise] at sorted
  exact ⟨(alarmsSorted_iff_pairwise _).2 (sorted.sublist sublist),
    fun a mem => by rw [cfg]; exact inv.delays a (sublist.subset mem)⟩

/-- A session's alarm turns into a required click; Cooldown is none of the session's (46_intervalometer.md R328). -/
theorem imagingInv_fireStep {s : State} (inv : ImagingInv s) : ImagingInv (fireStep s) := by
  by_cases empty : s.alarms = []
  · rwa [fireStep_of_none empty]
  obtain ⟨a, fires⟩ := exists_firing empty
  have count := imagingAlarms_perm (fireStep_alarms_perm fires)
  rw [imagingAlarms_cons] at count
  obtain ⟨cooldown, session⟩ := fireStep_spec fires
  by_cases kind : a.kind = .cooldown
  · rw [kind, imagingCount, if_pos rfl] at count
    exact inv.congr (by rw [cooldown kind]) count (fireStep_alarmStep s).cfg
  · rw [imagingCount, if_neg kind] at count
    have started : s.imaging.started = true := by
      rw [← Bool.not_eq_false]
      intro idle
      have := (inv.noSession idle).2.2
      omega
    have spent : imagingAlarms (fireStep s).alarms = 0 := by
      obtain ⟨_, noneArmed⟩ | ⟨_, one⟩ := inv.session started <;> omega
    rw [session kind]
    exact ⟨fun absent => absurd (inv.absent absent) (by simp [started]), fun idle => absurd idle (by simp [started]),
      fun _ => .inl ⟨rfl, spent⟩⟩

/-- Cooldown asserts STOP, and another alarm leaves the Cooldown that is to do it (44_stepping.md R279). -/
theorem pinInv_fireStep {s : State} (inv : PinInv s) : PinInv (fireStep s) := by
  by_cases empty : s.alarms = []
  · rwa [fireStep_of_none empty]
  obtain ⟨a, fires⟩ := exists_firing empty
  obtain ⟨cooldown, session⟩ := fireStep_spec fires
  by_cases kind : a.kind = .cooldown
  · rw [cooldown kind]
    exact ⟨inv.stepLow, inv.irLow, inv.dirShown, fun _ _ => .inl rfl⟩
  · have kept : ∀ b ∈ s.alarms, b.kind = .cooldown → b ∈ (fireStep s).alarms := by
      intro b mem isCooldown
      obtain rfl | mem := List.mem_cons.1 ((fireStep_alarms_perm fires).mem_iff.2 mem)
      · exact absurd isCooldown kind
      · exact mem
    exact inv.congr (by rw [session kind]) (by rw [session kind]) (events := [])
      (by rw [session kind, List.append_nil]) (by simp) kept

theorem inv_fireStep {s : State} (inv : Inv s) : Inv (fireStep s) := by
  have alarm := fireStep_alarmStep s
  exact {
    config := by rw [alarm.cfg]; exact inv.config
    table := by rw [alarm.cfg]; exact inv.table
    noFault := by rw [alarm.faults]; exact inv.noFault
    motor := inv.motor.congr alarm.motor alarm.c1 alarm.cfg
    imaging := imagingInv_fireStep inv.imaging
    alarms := alarmInv_fireStep inv.alarms
    host := inv.host.congr alarm.hostSide.1 (.inl alarm.chan) alarm.cfg
    pins := pinInv_fireStep inv.pins }

/-! ## C1's steps: what they are made of -/

/-- On to a step of the iteration that comes before its Motion step is over. -/
theorem inv_atPhase {s : State} (inv : Inv s) {p : C1Phase} (early : p = .imaging ∨ p = .poll ∨ p = .motion) :
    Inv (atPhase p s) := by
  have notPulsing : p ≠ .pulsing := by rintro rfl; simp at early
  have notFinal : p ≠ .finalReport := by rintro rfl; simp at early
  have motor : MotorInv (atPhase p s) := by
    obtain moving | resting := inv.motor.moving_or_resting
    · exact motorInv_of_moving moving inv.motor.batchBounded (fun _ => early) (fun h => absurd h notPulsing) notFinal
    · exact motorInv_of_resting resting inv.motor.batchBounded notPulsing (fun h => absurd h notFinal)
  exact inv.of_motor_pins motor (inv.pins.of_same rfl rfl rfl rfl) ⟨rfl, rfl, rfl, rfl, rfl⟩ (.inl rfl)

/-- Back to Override with the engine at rest. -/
theorem inv_atOverride {s : State} (inv : Inv s) (idle : s.motor.mode = .idle) : Inv (atPhase .override s) :=
  inv.of_motor_pins (motorInv_of_resting (inv.motor.resting idle) inv.motor.batchBounded nofun nofun)
    (inv.pins.of_same rfl rfl rfl rfl) ⟨rfl, rfl, rfl, rfl, rfl⟩ (.inl rfl)

theorem inv_hold {s : State} (inv : Inv s) (us : Nat) : Inv (hold us s) :=
  inv.of_motor_pins (inv.motor.congr rfl rfl rfl)
    (inv.pins.congr rfl rfl (events := [.hold us]) rfl (by simp) fun _ mem _ => mem) ⟨rfl, rfl, rfl, rfl, rfl⟩ (.inl rfl)

/-- Neither a word put into `fb` nor the drop log is in the invariant. -/
theorem inv_of_report {s : State} (inv : Inv s) (fb : Option Word32) (dropLog : List DropEvent) :
    Inv { s with fb := fb, dropLog := dropLog } :=
  inv.of_motor_pins (inv.motor.congr rfl rfl rfl) (inv.pins.of_same rfl rfl rfl rfl) ⟨rfl, rfl, rfl, rfl, rfl⟩ (.inl rfl)

theorem inv_of_take {s : State} (inv : Inv s) : Inv { s with chan := none } :=
  inv.of_motor_pins (inv.motor.congr rfl rfl rfl) (inv.pins.of_same rfl rfl rfl rfl) ⟨rfl, rfl, rfl, rfl, rfl⟩ (.inr rfl)

/-- A start before the Motion step, from whatever motor registers (43_motion_requests.md R240, R245). -/
theorem inv_startMotion {s : State} (inv : Inv s) (early : s.c1.phase = .imaging ∨ s.c1.phase = .motion)
    (m : MotorState) (t : Position) : Inv (startMotion t { s with motor := m }) := by
  have moving := moving_motorStarted inv.config t m
  have notPulsing : s.c1.phase ≠ .pulsing := by rcases early with h | h <;> rw [h] <;> nofun
  have notFinal : s.c1.phase ≠ .finalReport := by rcases early with h | h <;> rw [h] <;> nofun
  have motor : MotorInv (startMotion t { s with motor := m }) :=
    motorInv_of_moving moving inv.motor.batchBounded (fun _ => early.imp_right .inr) (fun h => absurd h notPulsing)
      notFinal
  exact inv.of_motor_pins motor ⟨inv.pins.stepLow, inv.pins.irLow, fun _ => rfl, nofun⟩ ⟨rfl, rfl, rfl, rfl, rfl⟩ (.inl rfl)

/-! ## C1's steps -/

theorem inv_overrideStep {s : State} (inv : Inv s) : Inv (overrideStep s) := by
  have started : Inv (atPhase .imaging (overrideMotion s.env.turn.btnInc s.env.turn.btnDec s)) := by
    obtain rests | ⟨t, starts⟩ := overrideMotion_starts s.env.turn.btnInc s.env.turn.btnDec s
    · rw [rests]; exact inv_atPhase inv (.inl rfl)
    · rw [starts]; exact inv_startMotion (inv_atPhase inv (.inl rfl)) (.inl rfl) s.motor t
  exact inv_hold started _

theorem dir_not_mem_clickEvents (pulses us gapUs n : Nat) (level : Bool) :
    PinEvent.pin .dir level ∉ clickEvents pulses us gapUs n := by
  have burst : PinEvent.pin .dir level ∉ burstEvents us pulses := by
    simp [burstEvents, pulseEvents, List.mem_flatten, List.mem_replicate]
  induction n with
  | zero => exact List.not_mem_nil
  | succ n ih =>
    cases n with
    | zero => rwa [clickEvents_one]
    | succ n => simp [clickEvents_add_two, burst, ih]

/-- A click is required only in a session, in which no session alarm is then armed (46_intervalometer.md R328). -/
theorem ImagingInv.of_click_required {s : State} (inv : ImagingInv s) {sw : Bool}
    (required : (armSession sw s.imaging).clickRequired = true) :
    (armSession sw s.imaging).started = true ∧ imagingAlarms s.alarms = 0 := by
  cases started : s.imaging.started with
  | true =>
    rw [armSession_of_started started] at required ⊢
    obtain ⟨_, noneArmed⟩ | ⟨noClick, _⟩ := inv.session started
    · exact ⟨started, noneArmed⟩
    · exact absurd required (by simp [noClick])
  | false =>
    obtain ⟨_, noClick, noneArmed⟩ := inv.noSession started
    cases sw with
    | true => exact ⟨by rw [armSession_starts started], noneArmed⟩
    | false => exact absurd required (by simp [armSession_of_switch_inactive, noClick])

theorem imagingInv_imagingStep {s : State} (inv : ImagingInv s) : ImagingInv (imagingStep s) := by
  obtain rest | ⟨built, required⟩ := imagingStep_cases s
  · rw [rest]; exact inv.congr rfl rfl rfl
  obtain ⟨started, noneArmed⟩ := inv.of_click_required required
  rw [imagingStep_eq_of_click built rfl required]
  generalize armSession s.env.turn.imgSwitch s.imaging = m at started required
  refine ⟨fun absent => absurd built (by simpa using absent), fun idle => ?ends, fun session => .inr ⟨rfl, ?goesOn⟩⟩
  case ends =>
    simp only [started, Bool.true_and, Bool.or_eq_false_iff, Bool.not_eq_false'] at idle
    obtain ⟨isOpen, switch⟩ := idle
    simp [isOpen, switch, noneArmed]
  case goesOn =>
    simp only [started, Bool.true_and, Bool.or_eq_true, Bool.not_eq_true'] at session
    cases isOpen : m.shutterOpen with
    | false => simp [noneArmed, imagingCount]
    | true => simp [session.resolve_left (by simp [isOpen]), noneArmed, imagingCount]

theorem alarmInv_imagingStep {s : State} (inv : AlarmInv s) : AlarmInv (imagingStep s) := by
  obtain rest | ⟨built, required⟩ := imagingStep_cases s
  · rw [rest]; exact inv.congr rfl rfl
  have armed := congrArg (fun u : State => u.alarms) (imagingStep_eq_of_click built rfl required)
  have cfg : (imagingStep s).cfg = s.cfg := by rw [imagingStep_frame]
  dsimp only at armed
  split_ifs at armed
  · exact inv.insert .pause armed cfg
  · exact inv.congr armed cfg
  · exact inv.insert .exposure armed cfg

theorem pinInv_imagingStep {s : State} (inv : PinInv s) : PinInv (imagingStep s) := by
  have motor : (imagingStep s).motor = s.motor := by rw [imagingStep_frame]
  have kept : ∀ a ∈ s.alarms, a.kind = .cooldown → a ∈ (imagingStep s).alarms := by
    intro a mem _
    obtain rest | ⟨built, required⟩ := imagingStep_cases s
    · rw [rest]; exact mem
    · rw [imagingStep_eq_of_click built rfl required]
      dsimp only
      split_ifs
      · exact mem_insertAlarm.2 (.inr mem)
      · exact mem
      · exact mem_insertAlarm.2 (.inr mem)
  obtain ⟨drives, -⟩ | ⟨drives, -⟩ := imagingStep_drives s
  · exact inv.congr (imagingStep_pins inv.irLow) motor drives.trace (by simp) kept
  · exact inv.congr (imagingStep_pins inv.irLow) motor drives.trace (dir_not_mem_clickEvents _ _ _ _) kept

theorem inv_imagingStep {s : State} (inv : Inv s) : Inv (imagingStep s) := by
  have frame := imagingStep_frame s
  have cfg : (imagingStep s).cfg = s.cfg := by rw [frame]
  exact {
    config := by rw [cfg]; exact inv.config
    table := by rw [cfg]; exact inv.table
    noFault := by rw [frame]; exact inv.noFault
    motor := (inv_atPhase inv (p := .poll) (.inr (.inl rfl))).motor.congr (by rw [frame]; rfl) (by rw [frame]; rfl) cfg
    imaging := imagingInv_imagingStep inv.imaging
    alarms := alarmInv_imagingStep inv.alarms
    host := inv.host.congr (by rw [frame]) (.inl (by rw [frame])) cfg
    pins := pinInv_imagingStep inv.pins }

/-- A Stop leaves the engine at rest with STOP asserted (43_motion_requests.md R244). -/
theorem inv_stop {s u : State} (inv : Inv s) (h : exec .stop s = .next u) : Inv u := by
  cases (exec_stop s).symm.trans h
  have resting := resting_stopped (c := s.cfg) (m := s.motor) inv.motor.intervalOnRamp
  exact inv.of_motor_pins (motorInv_of_resting resting inv.motor.batchBounded nofun fun _ => rfl)
    ⟨inv.pins.stepLow, inv.pins.irLow, nofun, fun _ _ => .inl rfl⟩ ⟨rfl, rfl, rfl, rfl, rfl⟩ (.inl rfl)

theorem inv_exec_request {r : MotionRequest} {s u : State} (inv : Inv s) (motion : s.c1.phase = .motion)
    (h : exec (Instr.ofRequest r) s = .next u) : Inv u := by
  cases r with
  | target v => cases h; exact inv_startMotion inv (.inr motion) s.motor v
  | stop => exact inv_stop inv h
  | go =>
    by_cases stepping : s.motor.mode = .stepping
    · cases (exec_go_of_stepping stepping).symm.trans h
      exact inv
    · cases (exec_go_of_rest stepping).symm.trans h
      exact inv_startMotion inv (.inr motion) s.motor _
  | recalibrate => cases h; exact inv_startMotion inv (.inr motion) _ _

theorem inv_pollStep {s u : State} (inv : Inv s) (h : pollStep s = .next u) : Inv u := by
  have taken : Inv { s with chan := none, c1 := { s.c1 with phase := .motion } } :=
    inv_atPhase (inv_of_take inv) (p := .motion) (.inr (.inr rfl))
  obtain ⟨-, rfl⟩ | ⟨w, -, runs⟩ := pollStep_cases h
  · exact taken
  · exact inv_exec_request taken rfl runs

/-- The end of a motion: at rest, the final report held, Cooldown armed (44_stepping.md R278). -/
theorem inv_reachTarget {s : State} (config : s.cfg.wellFormed = true) (table : s.cfg.meetsTable = true)
    (noFault : s.faults = []) (moving : Moving s.cfg s.motor) (atTarget : s.motor.currentPosition = s.motor.targetPosition)
    (batch : s.c1.batchCount ≤ s.cfg.batchSize) (imaging : ImagingInv s) (alarms : AlarmInv s) (host : HostInv s)
    (stepLow : s.pins.step = false) (irLow : s.pins.ir = false) : Inv (reachTarget s) where
  config := config
  table := table
  noFault := noFault
  motor := motorInv_of_resting (moving.ended atTarget) batch nofun fun _ => rfl
  imaging := imaging.congr rfl (imagingAlarms_insertAlarm _ _) rfl
  alarms := alarms.insert .cooldown rfl rfl
  host := host.congr rfl (.inl rfl) rfl
  pins := ⟨stepLow, irLow, nofun, fun _ _ => .inr ⟨_, mem_insertAlarm.2 (.inl rfl), rfl⟩⟩

theorem inv_motionStep {s : State} (inv : Inv s) : Inv (motionStep s) := by
  obtain ⟨notStepping, h⟩ | ⟨stepping, atTarget, h⟩ | ⟨stepping, away, h⟩ := motionStep_cases s
  · obtain moving | resting := inv.motor.moving_or_resting
    · exact absurd moving.stepping notStepping
    · rw [h]; exact inv_atOverride inv resting.idle
  · rw [h]
    exact inv_reachTarget inv.config inv.table inv.noFault (inv.motor.moving stepping) atTarget (Nat.zero_le _)
      (inv.imaging.congr rfl rfl rfl) (inv.alarms.congr rfl rfl) (inv.host.congr rfl (.inl rfl) rfl) inv.pins.stepLow
      inv.pins.irLow
  · obtain ⟨batch, _⟩ := (wellFormed_iff _).1 inv.config
    rw [h]
    exact inv.of_motor_pins
      (motorInv_of_moving (inv.motor.moving stepping) (Nat.zero_le _) (fun h => absurd h away) (fun _ => batch) nofun)
      (inv.pins.of_same rfl rfl rfl rfl) ⟨rfl, rfl, rfl, rfl, rfl⟩ (.inl rfl)

/-- In a batch the engine is under way, away from its target, and the batch is not full (10_state.md R46). -/
theorem MotorInv.of_pulsing {s : State} (inv : MotorInv s) (pulsing : s.c1.phase = .pulsing) :
    Moving s.cfg s.motor ∧ s.motor.currentPosition ≠ s.motor.targetPosition ∧ s.c1.batchCount < s.cfg.batchSize := by
  obtain ⟨stepping, room⟩ := inv.pulsingInBatch pulsing
  refine ⟨inv.moving stepping, fun atTarget => ?_, room⟩
  have transient := inv.zeroMoveIsTransient stepping atTarget
  rw [pulsing] at transient
  simp at transient

/-- The pins' part after a pulse: STEP is low again, and nothing else of it has changed. -/
theorem pinInv_of_pulsed {s t : State} (inv : PinInv s) (pins : t.pins = { s.pins with step := false })
    (stepping : t.motor.mode = .stepping ∧ s.motor.mode = .stepping) (direction : t.motor.direction = s.motor.direction) :
    PinInv t where
  stepLow := by rw [pins]
  irLow := by rw [pins]; exact inv.irLow
  dirShown _ := by rw [pins, direction]; exact inv.dirShown stepping.2
  stopComes idle := by rw [stepping.1] at idle; cases idle

theorem inv_pulseStep {s : State} (inv : Inv s) (pulsing : s.c1.phase = .pulsing) : Inv (pulseStep s) := by
  obtain ⟨moving, away, room⟩ := inv.motor.of_pulsing pulsing
  obtain ⟨pulsed, -⟩ := moving.pulsed inv.config away
  rw [pulseStep_of_consistent (moving.consistent away)]
  obtain ⟨atTarget, h⟩ | ⟨still, complete, h⟩ | ⟨still, incomplete, h⟩ := endOfPulse_cases (pulseRegisters (stepPulse s))
  · rw [h]
    exact inv_reachTarget inv.config inv.table inv.noFault pulsed atTarget room (inv.imaging.congr rfl rfl rfl)
      (inv.alarms.congr rfl rfl) (inv.host.congr rfl (.inl rfl) rfl) rfl inv.pins.irLow
  · have goesOn : Inv (atPhase .override (pulseRegisters (stepPulse s))) :=
      inv.of_motor_pins (motorInv_of_moving pulsed room (fun h => absurd h still) nofun nofun)
        (pinInv_of_pulsed inv.pins rfl ⟨moving.stepping, moving.stepping⟩ rfl) ⟨rfl, rfl, rfl, rfl, rfl⟩ (.inl rfl)
    rw [h]
    cases fb : s.fb with
    | none =>
      rw [reportIntermediate_of_fb_empty (s := pulseRegisters (stepPulse s)) fb]
      exact inv_of_report goesOn _ s.dropLog
    | some w =>
      rw [reportIntermediate_of_fb_full (s := pulseRegisters (stepPulse s)) fb]
      exact inv_of_report goesOn s.fb _
  · rw [h]
    exact inv.of_motor_pins
      (motorInv_of_moving pulsed room (fun h => absurd h still) (fun _ => lt_of_le_of_ne room incomplete) nofun)
      (pinInv_of_pulsed inv.pins rfl ⟨moving.stepping, moving.stepping⟩ rfl) ⟨rfl, rfl, rfl, rfl, rfl⟩ (.inl rfl)

theorem inv_finalReportStep {s : State} (inv : Inv s) (finalReport : s.c1.phase = .finalReport) :
    Inv (finalReportStep s) := by
  cases fb : s.fb with
  | none =>
    rw [finalReportStep_of_fb_empty fb]
    exact inv_of_report (inv_atOverride inv (inv.motor.finalReportOfEnd finalReport).1) _ s.dropLog
  | some w => rwa [finalReportStep_of_fb_full fb]

theorem inv_c1Step {s u : State} (inv : Inv s) (h : c1Step s = .next u) : Inv u := by
  obtain ⟨_, rfl⟩ | ⟨_, rfl⟩ | ⟨_, h⟩ | ⟨_, rfl⟩ | ⟨phase, rfl⟩ | ⟨phase, rfl⟩ := c1Step_cases h
  · exact inv_overrideStep inv
  · exact inv_imagingStep inv
  · exact inv_pollStep inv h
  · exact inv_motionStep inv
  · exact inv_pulseStep inv phase
  · exact inv_finalReportStep inv phase

/-! ## The block's step and its runs -/

theorem inv_agentStep {s u : State} (inv : Inv s) (h : agentStep s = .next u) : Inv u := by
  obtain ⟨_, h⟩ | ⟨_, h⟩ | ⟨_, rfl⟩ := agentStep_cases h
  · exact inv_c0Step inv h
  · exact inv_c1Step inv h
  · exact inv_fireStep inv

/-- Settles O50: the step of each agent keeps the invariant, and the next turn is no part of it. -/
theorem stepKeepsInv : Obligations.StepKeepsInv := by
  intro s t inv h
  obtain ⟨_, u, runs, rfl⟩ := step_eq_next.1 h
  exact inv_advance (inv_agentStep inv runs)

/-- A state that meets the invariant has a next one that does (60_exceptions.md R402). -/
theorem Inv.exists_step {s : State} (inv : Inv s) : ∃ t, step s = .next t ∧ Inv t := by
  obtain ⟨u, -, h⟩ := step_answers_next s inv.noFault
  exact ⟨advance u, h, stepKeepsInv s _ inv h⟩

theorem runSteps_succ_of_next {s t : State} (h : step s = .next t) (k : Nat) : runSteps (k + 1) s = runSteps k t := by
  rw [runSteps, h]

/-- Settles O52: by induction on the run's length, from step to step. -/
theorem noRunRecordsADefect : Obligations.NoRunRecordsADefect := by
  intro s k inv
  induction k generalizing s with
  | zero => exact ⟨s, rfl, inv, inv.noFault⟩
  | succ k ih =>
    obtain ⟨t, h, keeps⟩ := inv.exists_step
    obtain ⟨u, runs, rest⟩ := ih t keeps
    exact ⟨u, (runSteps_succ_of_next h k).trans runs, rest⟩

end Sys2Proof.Machine
end

section
/-! Runs of C1 (43_motion_requests.md section 3; 44_stepping.md section 5): a Go taken at rest, the pulses of a batch, and
how many steps of C1 a motion still takes. -/

namespace Sys2Proof.Machine

/-! ## Runs and turns -/

theorem runSteps_succ_of_agent {s u : State} (noFault : s.faults = []) (h : agentStep s = .next u) (k : Nat) :
    runSteps (k + 1) s = runSteps k (advance u) :=
  runSteps_succ_of_next (step_eq_next.2 ⟨noFault, u, h, rfl⟩) k

theorem agentStep_of_c1 {s : State} (c1 : s.env.turn.agent = .c1) : agentStep s = c1Step s := by
  rw [agentStep, c1]

/-- A script that is not empty gives the turns to come, the next one first. -/
theorem nextEnv_of_script {e : Env} {k : Nat} (enough : k + 1 ≤ e.script.length) :
    k ≤ (nextEnv e).script.length ∧ (nextEnv e).turn :: (nextEnv e).script = e.script := by
  obtain ⟨t, rest, script⟩ := List.exists_cons_of_length_pos (Nat.zero_lt_of_lt enough)
  rw [script, List.length_cons] at enough
  rw [nextEnv, script]
  exact ⟨Nat.le_of_succ_le_succ enough, rfl⟩

/-- Of an agent's turns the first is now, and the others follow. -/
theorem agentHasTurns_succ {a : Agent} {k : Nat} {s : State} (turns : agentHasTurns a (k + 1) s) :
    s.env.turn.agent = a ∧ ∀ t : State, t.env = nextEnv s.env → agentHasTurns a k t := by
  obtain ⟨enough, same⟩ := turns
  refine ⟨same _ (by simp), fun t env => ?_⟩
  cases k with
  | zero => exact ⟨Nat.zero_le _, by simp⟩
  | succ k =>
    obtain ⟨left, script⟩ := nextEnv_of_script (Nat.le_of_succ_le_succ enough)
    rw [agentHasTurns, env, script]
    exact ⟨Nat.succ_le_succ left, fun x mem => same x (List.mem_cons_of_mem _ mem)⟩

/-- A run in C1's turns begins with C1's step. -/
theorem runSteps_of_c1 {s u : State} {k : Nat} (noFault : s.faults = []) (turns : agentHasTurns .c1 (k + 1) s)
    (h : c1Step s = .next u) : runSteps (k + 1) s = runSteps k (advance u) ∧ agentHasTurns .c1 k (advance u) := by
  obtain ⟨now, later⟩ := agentHasTurns_succ turns
  exact ⟨runSteps_succ_of_agent noFault ((agentStep_of_c1 now).trans h) k,
    later _ (congrArg nextEnv (c1Step_motorStep h).env)⟩

/-! ## A Go taken at rest -/

/-- Settles O35: the Poll step starts a motion to where the engine stands, and the Motion step ends it. -/
theorem goFromIdleNeverPulses : Obligations.GoFromIdleNeverPulses := by
  intro s inv idle poll chan turns
  have notStepping : s.motor.mode ≠ .stepping := by rw [idle]; nofun
  obtain ⟨atTarget, -⟩ := inv.motor.idleAtTarget idle
  obtain ⟨u, hu⟩ : ∃ u, u = startMotion s.motor.targetPosition (atPhase .motion { s with chan := none }) := ⟨_, rfl⟩
  have taken : c1Step s = .next u := by
    rw [c1Step_of_poll poll, pollStep_of_chan_full chan, hu]
    exact exec_go_of_rest notStepping
  obtain ⟨first, turns⟩ := runSteps_of_c1 inv.noFault turns taken
  obtain ⟨v, hv⟩ : ∃ v, v = reachTarget { advance u with c1 := { u.c1 with batchCount := 0 } } := ⟨_, rfl⟩
  have ends : c1Step (advance u) = .next v := by
    rw [c1Step_of_motion (by rw [hu]; rfl), hv, motionStep_of_at_target (by rw [hu]; rfl) (by rw [hu]; exact atTarget)]
    rfl
  obtain ⟨second, -⟩ := runSteps_of_c1 (by rw [hu]; exact inv.noFault) turns ends
  refine ⟨advance v, first.trans second, ?noPulse, ?rest⟩
  case noPulse =>
    have trace : (advance v).pinTrace = u.pinTrace := by rw [hv]; rfl
    rw [trace, hu, (drives_startMotion _ _).trace, stepPulses_append]
    simp [stepPulses, atPhase]
  case rest => rw [hv, hu]; exact ⟨rfl, rfl, rfl, rfl, rfl⟩

/-! ## The pulses of a batch -/

/-- What a Pulse step does in a state that meets the invariant (44_stepping.md R275, R277, R283). -/
structure PulseEffect (s u : State) : Prop where
  target : u.motor.targetPosition = s.motor.targetPosition
  nearer : distance u.motor.targetPosition u.motor.currentPosition + 1 =
    distance s.motor.targetPosition s.motor.currentPosition
  pulses : stepPulses u.pinTrace = stepPulses s.pinTrace + 1
  chan : u.chan = s.chan
  cfg : u.cfg = s.cfg
  /-- The target is reached. -/
  ends : u.motor.currentPosition = u.motor.targetPosition → u.motor.mode = .idle ∧ u.c1.phase = .finalReport
  /-- The batch is complete, or it goes on. -/
  goesOn : u.motor.currentPosition ≠ u.motor.targetPosition → u.motor.mode = .stepping ∧
    (s.c1.batchCount + 1 = s.cfg.batchSize → u.c1.phase = .override) ∧
    (s.c1.batchCount + 1 ≠ s.cfg.batchSize → u.c1.phase = .pulsing ∧ u.c1.batchCount = s.c1.batchCount + 1)

theorem pulseStep_effect {s : State} (inv : Inv s) (pulsing : s.c1.phase = .pulsing) : PulseEffect s (pulseStep s) := by
  obtain ⟨moving, away, -⟩ := inv.motor.of_pulsing pulsing
  obtain ⟨-, nearer⟩ := moving.pulsed inv.config away
  have pulses : stepPulses (pulseRegisters (stepPulse s)).pinTrace = stepPulses s.pinTrace + 1 := by
    rw [pulseRegisters_pinTrace, (drives_stepPulse s).trace, stepPulses_append]
    rfl
  rw [pulseStep_of_consistent (moving.consistent away)]
  obtain ⟨atTarget, h⟩ | ⟨still, complete, h⟩ | ⟨still, incomplete, h⟩ := endOfPulse_cases (pulseRegisters (stepPulse s))
  · rw [h]
    exact ⟨rfl, nearer, pulses, rfl, rfl, fun _ => ⟨rfl, rfl⟩, fun away => absurd atTarget away⟩
  · rw [h, reportIntermediate_eq]
    cases (pulseRegisters (stepPulse s)).fb with
    | none =>
      exact ⟨rfl, nearer, pulses, rfl, rfl, fun atTarget => absurd atTarget still,
        fun _ => ⟨moving.stepping, fun _ => rfl, fun open_ => absurd complete open_⟩⟩
    | some w =>
      exact ⟨rfl, nearer, pulses, rfl, rfl, fun atTarget => absurd atTarget still,
        fun _ => ⟨moving.stepping, fun _ => rfl, fun open_ => absurd complete open_⟩⟩
  · rw [h]
    exact ⟨rfl, nearer, pulses, rfl, rfl, fun atTarget => absurd atTarget still,
      fun _ => ⟨moving.stepping, fun full => absurd full incomplete, fun _ => ⟨rfl, rfl⟩⟩⟩

theorem distance_eq_zero_iff {t c : Position} : distance t c = 0 ↔ c = t := by
  refine ⟨fun zero => BitVec.eq_of_toNat_eq ?_, by rintro rfl; exact distance_self c⟩
  unfold distance at zero
  split at zero <;> omega

/-- `n` pulses of a batch, which need C1 in the batch only while there are any. -/
theorem runSteps_pulses {s : State} {n : Nat} (inv : Inv s) (pulsing : 0 < n → s.c1.phase = .pulsing)
    (turns : agentHasTurns .c1 n s) (far : n ≤ distance s.motor.targetPosition s.motor.currentPosition)
    (room : n ≤ s.cfg.batchSize - s.c1.batchCount) :
    ∃ t, runSteps n s = .next t ∧ Inv t ∧ t.motor.targetPosition = s.motor.targetPosition ∧
      distance t.motor.targetPosition t.motor.currentPosition + n =
        distance s.motor.targetPosition s.motor.currentPosition ∧
      stepPulses t.pinTrace = stepPulses s.pinTrace + n := by
  induction n generalizing s with
  | zero => exact ⟨s, rfl, inv, rfl, rfl, rfl⟩
  | succ n ih =>
    have now := pulsing (Nat.succ_pos n)
    have runs := c1Step_of_pulsing now
    have effect := pulseStep_effect inv now
    have nearer := effect.nearer
    obtain ⟨first, turns⟩ := runSteps_of_c1 inv.noFault turns runs
    obtain ⟨later, count⟩ : (0 < n → (pulseStep s).c1.phase = .pulsing) ∧
        (0 < n → (pulseStep s).c1.batchCount = s.c1.batchCount + 1) := by
      suffices 0 < n → (pulseStep s).c1.phase = .pulsing ∧ (pulseStep s).c1.batchCount = s.c1.batchCount + 1 from
        ⟨fun h => (this h).1, fun h => (this h).2⟩
      intro more
      have away : (pulseStep s).motor.currentPosition ≠ (pulseStep s).motor.targetPosition := by
        rw [Ne, ← distance_eq_zero_iff]
        omega
      exact (effect.goesOn away).2.2 (by omega)
    have roomLeft : n ≤ (pulseStep s).cfg.batchSize - (pulseStep s).c1.batchCount := by
      rcases Nat.eq_zero_or_pos n with rfl | more
      · exact Nat.zero_le _
      · rw [effect.cfg, count more]; omega
    obtain ⟨t, rest, invT, target, distance_, pulses⟩ :=
      ih (s := advance (pulseStep s)) (inv_advance (inv_c1Step inv runs)) later turns (by
        change n ≤ distance (pulseStep s).motor.targetPosition (pulseStep s).motor.currentPosition
        omega) roomLeft
    rw [advance_motor] at target distance_
    rw [advance_pinTrace, effect.pulses] at pulses
    exact ⟨t, first.trans rest, invT, target.trans effect.target, by omega, by omega⟩

/-- Settles O39: by induction on the number of pulses, each one step nearer. -/
theorem pulsesApproachTheTarget : Obligations.PulsesApproachTheTarget := by
  intro s n inv pulsing turns far room
  obtain ⟨t, runs, invT, target, nearer, pulses⟩ := runSteps_pulses inv (fun _ => pulsing) turns far room
  exact ⟨t, runs, invT, target, nearer, pulses, invT.noFault⟩

/-! ## How long a motion takes -/

/-- The steps that C1 takes until a motion under way ends, with the buttons inactive and `chan` empty: one for each pulse,
and four for each iteration's way from Override to its batch (44_stepping.md R270, R274, R277). -/
def stepsToGo (s : State) : Nat :=
  let d := distance s.motor.targetPosition s.motor.currentPosition
  let away := d + 4 * ((d - 1) / s.cfg.batchSize)
  match s.c1.phase with
  | .override => 4 + away
  | .imaging => 3 + away
  | .poll => 2 + away
  | .motion => 1 + away
  | .pulsing => d + 4 * ((d - 1 + s.c1.batchCount) / s.cfg.batchSize)
  | .finalReport => 0

/-- A motion to `target` that no request will change. -/
structure UnderWay (target : Position) (s : State) : Prop where
  inv : Inv s
  stepping : s.motor.mode = .stepping
  heads : s.motor.targetPosition = target
  noRequest : s.chan = none

/-- The motion to `target` is over and its report held. -/
structure EndedAt (target : Position) (s : State) : Prop where
  idle : s.motor.mode = .idle
  position : s.motor.currentPosition = target
  heads : s.motor.targetPosition = target
  phase : s.c1.phase = .finalReport
  report : s.c1.pendingFinal = encodeReport target target

/-- A step that leaves the engine alone leaves the motion under way, closer to its batch. -/
theorem UnderWay.of_same_motor {target : Position} {s u : State} (way : UnderWay target s) (inv : Inv u)
    (motor : u.motor = s.motor) (chan : u.chan = s.chan) : UnderWay target u :=
  ⟨inv, by rw [motor]; exact way.stepping, by rw [motor]; exact way.heads, chan.trans way.noRequest⟩

/-- The pulse of a motion under way ends it, or brings it one step closer to its end. -/
theorem UnderWay.pulse {target : Position} {s : State} (way : UnderWay target s) (pulsing : s.c1.phase = .pulsing) :
    (UnderWay target (pulseStep s) ∧ stepsToGo (pulseStep s) + 1 = stepsToGo s) ∨
    (EndedAt target (pulseStep s) ∧ stepsToGo s = 1) := by
  have effect := pulseStep_effect way.inv pulsing
  have inv := inv_c1Step way.inv (c1Step_of_pulsing pulsing)
  obtain ⟨-, -, room⟩ := way.inv.motor.of_pulsing pulsing
  have nearer := effect.nearer
  have target' := effect.target.trans way.heads
  have toGo : stepsToGo s = distance s.motor.targetPosition s.motor.currentPosition + 4 *
      ((distance s.motor.targetPosition s.motor.currentPosition - 1 + s.c1.batchCount) / s.cfg.batchSize) := by
    rw [stepsToGo, pulsing]
  rw [← nearer, Nat.add_sub_cancel] at toGo
  by_cases atTarget : (pulseStep s).motor.currentPosition = (pulseStep s).motor.targetPosition
  · obtain ⟨idle, final⟩ := effect.ends atTarget
    refine .inr ⟨⟨idle, atTarget.trans target', target', final, ?_⟩, ?_⟩
    · rw [(inv.motor.finalReportOfEnd final).2, fbWord, atTarget, target']
    · rw [toGo, atTarget, distance_self, Nat.zero_add, Nat.zero_add, Nat.div_eq_of_lt room]
  · obtain ⟨stepping, complete, incomplete⟩ := effect.goesOn atTarget
    refine .inl ⟨⟨inv, stepping, target', effect.chan.trans way.noRequest⟩, ?_⟩
    have positive : 0 < distance (pulseStep s).motor.targetPosition (pulseStep s).motor.currentPosition :=
      Nat.pos_of_ne_zero fun zero => atTarget (distance_eq_zero_iff.1 zero)
    by_cases full : s.c1.batchCount + 1 = s.cfg.batchSize
    · rw [stepsToGo, complete full, toGo, effect.cfg]
      obtain ⟨d, hd⟩ := Nat.exists_eq_add_of_lt positive
      have batches : (d + 1 + s.c1.batchCount) / s.cfg.batchSize = d / s.cfg.batchSize + 1 := by
        rw [show d + 1 + s.c1.batchCount = d + s.cfg.batchSize by omega, Nat.add_div_right _ (by omega)]
      rw [Nat.zero_add] at hd
      simp only [hd, Nat.add_sub_cancel, batches]
      omega
    · obtain ⟨phase, count⟩ := incomplete full
      rw [stepsToGo, phase, toGo, effect.cfg, count]
      dsimp only
      rw [show distance (pulseStep s).motor.targetPosition (pulseStep s).motor.currentPosition - 1 +
        (s.c1.batchCount + 1) = distance (pulseStep s).motor.targetPosition (pulseStep s).motor.currentPosition +
        s.c1.batchCount by omega]
      omega

/-- Every step of C1 with the buttons inactive brings a motion under way one step closer to its end. -/
theorem UnderWay.c1Step {target : Position} {s u : State} (way : UnderWay target s)
    (buttons : s.env.turn.btnInc = false ∧ s.env.turn.btnDec = false) (h : c1Step s = .next u) :
    (UnderWay target u ∧ stepsToGo u + 1 = stepsToGo s) ∨ (EndedAt target u ∧ stepsToGo s = 1) := by
  have inv := inv_c1Step way.inv h
  cases phase : s.c1.phase with
  | override =>
    have rests : overrideMotion s.env.turn.btnInc s.env.turn.btnDec s = s := by
      rw [buttons.1, buttons.2, overrideMotion_same]
    cases (c1Step_of_override_rests phase rests).symm.trans h
    exact .inl ⟨way.of_same_motor inv rfl rfl, by simp only [stepsToGo, phase]; omega⟩
  | imaging =>
    cases (c1Step_of_imaging phase).symm.trans h
    have frame := imagingStep_frame s
    refine .inl ⟨way.of_same_motor inv (by rw [frame]) (by rw [frame]), ?_⟩
    rw [frame]
    simp only [stepsToGo, phase]
    omega
  | poll =>
    cases ((c1Step_of_poll phase).trans (pollStep_of_chan_empty way.noRequest)).symm.trans h
    exact .inl ⟨way.of_same_motor inv rfl rfl, by simp only [stepsToGo, phase]; omega⟩
  | motion =>
    cases (c1Step_of_motion phase).symm.trans h
    by_cases atTarget : s.motor.currentPosition = s.motor.targetPosition
    · rw [motionStep_of_at_target way.stepping atTarget]
      refine .inr ⟨⟨rfl, atTarget.trans way.heads, way.heads, rfl, ?_⟩, by simp [stepsToGo, phase, atTarget]⟩
      change encodeReport s.motor.targetPosition s.motor.currentPosition = _
      rw [atTarget, way.heads]
    · rw [motionStep_of_away_from_target way.stepping atTarget] at inv ⊢
      exact .inl ⟨way.of_same_motor inv rfl rfl, by simp only [stepsToGo, phase, Nat.add_zero]; omega⟩
  | pulsing =>
    cases (c1Step_of_pulsing phase).symm.trans h
    exact way.pulse phase
  | finalReport =>
    have idle := (way.inv.motor.finalReportOfEnd phase).1
    rw [way.stepping] at idle
    cases idle

theorem UnderWay.stepsToGo_pos {target : Position} {s : State} (way : UnderWay target s) : 0 < stepsToGo s := by
  cases phase : s.c1.phase with
  | finalReport =>
    have idle := (way.inv.motor.finalReportOfEnd phase).1
    rw [way.stepping] at idle
    cases idle
  | pulsing =>
    obtain ⟨-, away, -⟩ := way.inv.motor.of_pulsing phase
    have positive := Nat.pos_of_ne_zero fun zero => away (distance_eq_zero_iff.1 zero)
    simp only [stepsToGo, phase]
    omega
  | _ => simp only [stepsToGo, phase]; omega

/-- As many steps of C1 as there are to go end the motion. -/
theorem UnderWay.runSteps_ends {target : Position} {k : Nat} {s : State} (way : UnderWay target s)
    (toGo : stepsToGo s = k) (enough : k ≤ s.env.script.length)
    (turns : ∀ t ∈ s.env.turn :: s.env.script, t.agent = .c1 ∧ t.btnInc = false ∧ t.btnDec = false) :
    ∃ t, runSteps k s = .next t ∧ EndedAt target t := by
  induction k generalizing s with
  | zero => exact absurd way.stepsToGo_pos (by omega)
  | succ k ih =>
    obtain ⟨c1, buttons⟩ := turns _ (List.mem_cons_self ..)
    obtain ⟨u, h⟩ := c1Step_answers_next s
    have first := runSteps_succ_of_agent way.inv.noFault ((agentStep_of_c1 c1).trans h) k
    have env : (advance u).env = nextEnv s.env := congrArg nextEnv (c1Step_motorStep h).env
    obtain ⟨left, script⟩ := nextEnv_of_script enough
    obtain ⟨onWay, closer⟩ | ⟨ended, last⟩ := way.c1Step buttons h
    · obtain ⟨t, rest, ended⟩ := ih (s := advance u) (onWay.of_same_motor (inv_advance onWay.inv) rfl rfl)
        (Nat.succ_injective (closer.trans toGo)) (by rw [env]; exact left)
        (by rw [env, script]; exact fun x mem => turns x (List.mem_cons_of_mem _ mem))
      exact ⟨t, first.trans rest, ended⟩
    · obtain rfl : k = 0 := by omega
      exact ⟨advance u, first, ended.idle, ended.position, ended.heads, ended.phase, ended.report⟩

/-- Settles O40: the number of steps is `stepsToGo`, which no input but a button changes. -/
theorem everyMotionEndsAtItsTarget : Obligations.EveryMotionEndsAtItsTarget := by
  intro s inv stepping _ noRequest
  refine ⟨stepsToGo s, fun e enough turns => ?_⟩
  have way : UnderWay s.motor.targetPosition { s with env := e } :=
    ⟨inv.of_block_eq rfl rfl, stepping, rfl, noRequest⟩
  obtain ⟨t, runs, ended⟩ := way.runSteps_ends (k := stepsToGo s) rfl enough turns
  exact ⟨t, runs, ended.idle, ended.position, ended.heads, ended.phase, ended.report⟩

/-! ## Quiescence -/

/-- A quiescent state later on: C0 and C1 at other steps of their loops, and `n` settle holds longer. -/
def quietAt (p : C0Phase) (q : C1Phase) (n : Nat) (e : Env) (s : State) : State := { s with
  c0 := { s.c0 with phase := p }
  c1 := { s.c1 with phase := q }
  pinTrace := s.pinTrace ++ List.replicate n (.hold (s.cfg.settleMs * 1000))
  env := e }

/-- The steps of its loop at which C0 stands when nothing is to be sent. -/
def hostWaits (p : C0Phase) : Prop := p = .getChar ∨ p = .pollFeedback

/-- The steps of its loop at which C1 stands when the engine is at rest. -/
def motorWaits (q : C1Phase) : Prop := q = .override ∨ q = .imaging ∨ q = .poll ∨ q = .motion

theorem c0Step_quietAt {s : State} (quiescent : Quiescent s) {p : C0Phase} (waits : hostWaits p) (q : C1Phase) (n : Nat)
    {e : Env} (noChar : e.turn.char = none) :
    ∃ p', hostWaits p' ∧ c0Step (quietAt p q n e s) = .next (quietAt p' q n e s) := by
  obtain ⟨-, idle, -, -, fb, -⟩ := quiescent
  obtain rfl | rfl := waits
  · refine ⟨.pollFeedback, .inr rfl, ?_⟩
    have step : c0Step (quietAt .getChar q n e s) = getCharStep (quietAt .getChar q n e s) := rfl
    rw [step, getCharStep_of_none (s := quietAt .getChar q n e s) noChar, leaveGetChar]
    simp only [quietAt, idle]
    rfl
  · refine ⟨.getChar, .inl rfl, ?_⟩
    rw [c0Step_of_pollFeedback (s := quietAt .pollFeedback q n e s) rfl,
      pollFeedbackStep_of_fb_empty (s := quietAt .pollFeedback q n e s) fb]
    rfl

theorem c1Step_quietAt {s : State} (inv : Inv s) (quiescent : Quiescent s) (p : C0Phase) {q : C1Phase}
    (waits : motorWaits q) (n : Nat) {e : Env} (quiet : quietTurn e.turn) :
    ∃ q' n', motorWaits q' ∧ c1Step (quietAt p q n e s) = .next (quietAt p q' n' e s) := by
  obtain ⟨-, -, -, chan, -, -, idle, -, noSession⟩ := quiescent
  obtain ⟨-, inc, dec, switch⟩ := quiet
  obtain rfl | rfl | rfl | rfl := waits
  · refine ⟨.imaging, n + 1, .inr (.inl rfl), ?_⟩
    rw [c1Step_of_override_rests (s := quietAt p .override n e s) rfl (by
      change overrideMotion e.turn.btnInc e.turn.btnDec _ = _
      rw [inc, dec, overrideMotion_same])]
    simp only [quietAt, List.replicate_succ', List.append_assoc]
  · refine ⟨.poll, n, .inr (.inr (.inl rfl)), ?_⟩
    have started : s.imaging.started = false := by
      cases built : s.cfg.hasIntervalometer with
      | false => exact inv.imaging.absent built
      | true => exact noSession built
    obtain ⟨-, noClick, -⟩ := inv.imaging.noSession started
    rw [c1Step_of_imaging (s := quietAt p .imaging n e s) rfl,
      imagingStep_of_no_click (s := quietAt p .imaging n e s) (by
        change (armSession e.turn.imgSwitch s.imaging).clickRequired = false
        rw [switch, armSession_of_switch_inactive, noClick])]
    rfl
  · refine ⟨.motion, n, .inr (.inr (.inr rfl)), ?_⟩
    rw [c1Step_of_poll (s := quietAt p .poll n e s) rfl, pollStep_of_chan_empty (s := quietAt p .poll n e s) chan]
    rfl
  · refine ⟨.override, n, .inl rfl, ?_⟩
    rw [c1Step_of_motion (s := quietAt p .motion n e s) rfl,
      motionStep_of_not_stepping (s := quietAt p .motion n e s) (by
        change s.motor.mode ≠ .stepping
        rw [idle]
        nofun)]
    rfl

theorem agentStep_quietAt {s : State} (inv : Inv s) (quiescent : Quiescent s) {p : C0Phase} {q : C1Phase}
    (host : hostWaits p) (motor : motorWaits q) (n : Nat) {e : Env} (quiet : quietTurn e.turn) :
    ∃ p' q' n', hostWaits p' ∧ motorWaits q' ∧
      agentStep (quietAt p q n e s) = .next (quietAt p' q' n' e s) := by
  have turn : (quietAt p q n e s).env.turn.agent = e.turn.agent := rfl
  cases agent : e.turn.agent with
  | c0 =>
    obtain ⟨p', host', h⟩ := c0Step_quietAt quiescent host q n quiet.1
    exact ⟨p', q, n, host', motor, by simp only [agentStep, turn, agent, h]⟩
  | c1 =>
    obtain ⟨q', n', motor', h⟩ := c1Step_quietAt inv quiescent p motor n quiet
    exact ⟨p, q', n', host, motor', by simp only [agentStep, turn, agent, h]⟩
  | irq =>
    obtain ⟨-, -, -, -, -, -, -, noneArmed, -⟩ := quiescent
    have rests : fireStep (quietAt p q n e s) = quietAt p q n e s := fireStep_of_none noneArmed
    exact ⟨p, q, n, host, motor, by simp only [agentStep, turn, agent, rests]⟩

theorem runSteps_quietAt {s : State} (inv : Inv s) (quiescent : Quiescent s) {k : Nat} {p : C0Phase} {q : C1Phase}
    (host : hostWaits p) (motor : motorWaits q) (n : Nat) {e : Env} (enough : k ≤ e.script.length)
    (quiet : ∀ t ∈ e.turn :: e.script, quietTurn t) :
    ∃ p' q' n' e', runSteps k (quietAt p q n e s) = .next (quietAt p' q' n' e' s) := by
  induction k generalizing p q n e with
  | zero => exact ⟨p, q, n, e, rfl⟩
  | succ k ih =>
    obtain ⟨p', q', n', host', motor', h⟩ := agentStep_quietAt inv quiescent host motor n (quiet _ (List.mem_cons_self ..))
    obtain ⟨left, script⟩ := nextEnv_of_script enough
    obtain ⟨p'', q'', n'', e'', rest⟩ := ih host' motor' n' left
      (by rw [script]; exact fun t mem => quiet t (List.mem_cons_of_mem _ mem))
    exact ⟨p'', q'', n'', e'', (runSteps_succ_of_agent (s := quietAt p q n e s) inv.noFault h k).trans rest⟩

/-- Settles O59: a quiescent state stays one of `quietAt` through every step. -/
theorem quiescenceIsStable : Obligations.QuiescenceIsStable := by
  intro s k inv quiescent enough quiet
  have start : quietAt .getChar .override 0 s.env s = s := by
    obtain ⟨host, -, -, -, -, motor, -⟩ := quiescent
    simp only [quietAt, ← host, ← motor, List.replicate_zero, List.append_nil]
  obtain ⟨p, q, n, e, runs⟩ := runSteps_quietAt inv quiescent (.inl rfl) (.inl rfl) 0 enough quiet
  rw [start] at runs
  exact ⟨_, n, runs, rfl, rfl, rfl, rfl, rfl, rfl, rfl, rfl, rfl, rfl, rfl, rfl⟩

end Sys2Proof.Machine
end

section
/-! Every weakly fair run comes to rest (70_reset_and_hazards.md section 2): with inactive inputs C0 gets rid of its
request, C1 takes the word in `chan`, a motion ends, its report and the feedback leave, the session and then the armed
alarms end. Each stage is a rank that no step raises and that an agent's moves, or the alarm to fire, lower. -/

namespace Sys2Proof.Machine

/-! ## Ranks along a sequence -/

/-- A rank that in the end never grows, and while it is positive falls later or is another one later, is 0 for ever in the
end. -/
theorem eventually_rank_zero {f : Nat → Nat} (shrinks : ∀ᶠ m in Filter.atTop, f (m + 1) ≤ f m)
    (falls : ∀ᶠ m in Filter.atTop, 0 < f m → ∃ k, m ≤ k ∧ (f (k + 1) < f k ∨ f k ≠ f m)) :
    ∀ᶠ m in Filter.atTop, f m = 0 := by
  obtain ⟨start, both⟩ := Filter.eventually_atTop.1 (shrinks.and falls)
  have antitone : ∀ m k, start ≤ m → m ≤ k → f k ≤ f m := fun m k hm later => by
    induction k, later using Nat.le_induction with
    | base => exact le_rfl
    | succ j hj ih => exact (both j (hm.trans hj)).1.trans ih
  obtain ⟨n, -, zero⟩ := rank_vanishes f start (fun m hm => (both m hm).1) fun m hm positive => by
    obtain ⟨k, later, fall | other⟩ := (both m hm).2 positive
    · exact ⟨k, later, lt_of_lt_of_le fall (antitone m k hm later)⟩
    · obtain ⟨j, rfl⟩ : ∃ j, k = m + 1 + j :=
        Nat.exists_eq_add_of_lt (lt_of_le_of_ne later fun same => other (by rw [same])) |>.imp fun j h => by omega
      refine ⟨m + j, by omega, ?_⟩
      rw [show m + j + 1 = m + 1 + j by omega]
      exact lt_of_le_of_ne (antitone m _ hm later) other
  exact Filter.eventually_atTop.2 ⟨n, zero⟩

/-- A rank that never grows in the end and falls with every move of an agent that moves again and again. -/
theorem eventually_rank_zero_of_moves {f : Nat → Nat} {moves : Nat → Prop} (often : ∃ᶠ m in Filter.atTop, moves m)
    (step : ∀ᶠ m in Filter.atTop, f (m + 1) ≤ f m ∧ (moves m → 0 < f m → f (m + 1) < f m)) :
    ∀ᶠ m in Filter.atTop, f m = 0 := by
  refine eventually_rank_zero (step.mono fun m h => h.1) (Filter.Eventually.of_forall fun m positive => ?_)
  obtain ⟨k, later, moved, -, fall⟩ := Filter.frequently_atTop.1 (often.and_eventually step) m
  rcases Nat.eq_zero_or_pos (f k) with zero | stillPositive
  · exact ⟨k, later, .inr (by omega)⟩
  · exact ⟨k, later, .inl (fall moved stillPositive)⟩

/-! ## One step with inactive inputs -/

/-- A step of a state that meets the invariant, with the inputs inactive. -/
structure QuietStep (x u : State) : Prop where
  inv : Inv x
  quiet : quietTurn x.env.turn
  runs : agentStep x = .next u

theorem QuietStep.of_c0 {x u : State} (h : QuietStep x u) (c0 : x.env.turn.agent = .c0) : c0Step x = .next u := by
  have runs := h.runs
  rwa [agentStep, c0] at runs

theorem QuietStep.of_c1 {x u : State} (h : QuietStep x u) (c1 : x.env.turn.agent = .c1) : c1Step x = .next u := by
  have runs := h.runs
  rwa [agentStep, c1] at runs

theorem QuietStep.of_irq {x u : State} (h : QuietStep x u) (irq : x.env.turn.agent = .irq) : u = fireStep x := by
  have runs := h.runs
  rw [agentStep, irq] at runs
  cases runs
  rfl

/-- C1's step where it is not enabled: it waits (42_channel.md R217; log 3). -/
theorem c1Step_of_not_enabled {x : State} (waits : ¬ enabled .c1 x) : c1Step x = .next x := by
  obtain ⟨final, full⟩ := not_not.1 waits
  obtain ⟨w, hw⟩ := Option.ne_none_iff_exists'.1 full
  rw [c1Step_of_finalReport final, finalReportStep_of_fb_full hw]

/-! ## C0's request -/

/-- The attempts that a pending request still has. -/
def pendingRank (s : State) : Nat :=
  if s.c0.pendingSend = none then 0 else s.cfg.sendRetryLimit - s.c0.sendAttempts

theorem pendingRank_congr {x u : State} (c0 : u.c0 = x.c0) (cfg : u.cfg = x.cfg) : pendingRank u = pendingRank x := by
  rw [pendingRank, c0, cfg, pendingRank]

theorem QuietStep.pendingRank {x u : State} (h : QuietStep x u) :
    pendingRank u ≤ pendingRank x ∧
      (x.env.turn.agent = .c0 → 0 < pendingRank x → pendingRank u < pendingRank x) := by
  cases agent : x.env.turn.agent with
  | c1 =>
    have motor := c1Step_motorStep (h.of_c1 agent)
    exact ⟨(pendingRank_congr motor.hostSide.1 motor.cfg).le, nofun⟩
  | irq =>
    have alarm := fireStep_alarmStep x
    rw [h.of_irq agent]
    exact ⟨(pendingRank_congr alarm.hostSide.1 alarm.cfg).le, nofun⟩
  | c0 =>
    obtain ⟨-, -, -, -, cfg, -, idle, busy⟩ := c0Step_quiet h.quiet.1 h.inv.host.sendingIffPending (h.of_c0 agent)
    have room := h.inv.host.attemptsBounded
    by_cases pending : x.c0.pendingSend = none
    · have := (idle pending).1
      simp [Machine.pendingRank, this]
    · obtain sent | ⟨still, attempts⟩ := busy pending
      · simp only [Machine.pendingRank, sent, pending, if_true, if_false]
        omega
      · simp only [Machine.pendingRank, still, pending, if_false, cfg, attempts]
        omega

/-! ## The feedback word -/

/-- The steps that C0 takes until it has emptied `fb`, with nothing pending. -/
def feedbackRank (s : State) : Nat :=
  if s.fb = none then 0 else if s.c0.phase = .pollFeedback then 1 else 2

theorem feedbackRank_congr {x u : State} (c0 : u.c0 = x.c0) (fb : u.fb = x.fb) : feedbackRank u = feedbackRank x := by
  rw [feedbackRank, c0, fb, feedbackRank]

theorem QuietStep.feedbackRank {x u : State} (h : QuietStep x u) (idle : x.c0.pendingSend = none)
    (noPut : x.env.turn.agent = .c1 → u.fb = x.fb) :
    feedbackRank u ≤ feedbackRank x ∧
      (x.env.turn.agent = .c0 → 0 < feedbackRank x → feedbackRank u < feedbackRank x) := by
  cases agent : x.env.turn.agent with
  | c1 => exact ⟨(feedbackRank_congr (c1Step_motorStep (h.of_c1 agent)).hostSide.1 (noPut agent)).le, nofun⟩
  | irq =>
    have alarm := fireStep_alarmStep x
    rw [h.of_irq agent]
    exact ⟨(feedbackRank_congr alarm.hostSide.1 alarm.fb).le, nofun⟩
  | c0 =>
    obtain ⟨-, -, -, -, -, -, loops, -⟩ := c0Step_quiet h.quiet.1 h.inv.host.sendingIffPending (h.of_c0 agent)
    obtain ⟨-, -, ⟨getChar, pollFeedback, fb⟩ | ⟨pollFeedback, -, empty⟩⟩ := loops idle
    · cases held : x.fb <;> simp [Machine.feedbackRank, fb, held, getChar, pollFeedback]
    · cases held : x.fb <;> simp [Machine.feedbackRank, empty, held, pollFeedback]

/-! ## The word in `chan` -/

/-- The steps that C1 takes until its next Poll. -/
def stepsToPoll (s : State) : Nat :=
  match s.c1.phase with
  | .poll => 1
  | .imaging => 2
  | .override => 3
  | .finalReport => 4
  | .pulsing => 4 + (s.cfg.batchSize - s.c1.batchCount)
  | .motion => 5 + s.cfg.batchSize

/-- The steps that C1 takes until it has emptied `chan`. -/
def requestRank (s : State) : Nat := if s.chan = none then 0 else stepsToPoll s

theorem requestRank_congr {x u : State} (chan : u.chan = x.chan) (c1 : u.c1 = x.c1) (cfg : u.cfg = x.cfg) :
    requestRank u = requestRank x := by
  rw [requestRank, stepsToPoll, chan, c1, cfg, requestRank, stepsToPoll]

theorem stepsToPoll_pos (s : State) : 0 < stepsToPoll s := by
  unfold stepsToPoll
  split <;> omega

/-- Every move of C1 brings it closer to its next Poll, or is that Poll. -/
theorem stepsToPoll_c1Step {x u : State} (inv : Inv x) (moves : enabled .c1 x) (h : c1Step x = .next u)
    (notPoll : x.c1.phase ≠ .poll) : stepsToPoll u < stepsToPoll x := by
  cases phase : x.c1.phase with
  | poll => exact absurd phase notPoll
  | override =>
    cases (c1Step_of_override phase).symm.trans h
    simp [stepsToPoll, phase]
  | imaging =>
    cases (c1Step_of_imaging phase).symm.trans h
    rw [imagingStep_frame]
    simp [stepsToPoll, phase]
  | motion =>
    cases (c1Step_of_motion phase).symm.trans h
    obtain ⟨-, ends⟩ | ⟨-, -, ends⟩ | ⟨-, -, ends⟩ := motionStep_cases x
    all_goals
      rw [ends]
      simp only [stepsToPoll, phase, reachTarget_c1]
      omega
  | pulsing =>
    cases (c1Step_of_pulsing phase).symm.trans h
    obtain ⟨-, -, room⟩ := inv.motor.of_pulsing phase
    have effect := pulseStep_effect inv phase
    by_cases atTarget : (pulseStep x).motor.currentPosition = (pulseStep x).motor.targetPosition
    · simp only [stepsToPoll, phase, (effect.ends atTarget).2]
      omega
    · obtain ⟨-, complete, incomplete⟩ := effect.goesOn atTarget
      by_cases full : x.c1.batchCount + 1 = x.cfg.batchSize
      · simp only [stepsToPoll, phase, complete full]
        omega
      · simp only [stepsToPoll, phase, (incomplete full).1, (incomplete full).2, effect.cfg]
        omega
  | finalReport =>
    have empty : x.fb = none := by
      by_contra full
      exact moves ⟨phase, full⟩
    cases ((c1Step_of_finalReport phase).trans (congrArg _ (finalReportStep_of_fb_empty empty))).symm.trans h
    simp [stepsToPoll, phase]

theorem QuietStep.requestRank {x u : State} (h : QuietStep x u) (idle : x.c0.pendingSend = none) :
    requestRank u ≤ requestRank x ∧
      (x.env.turn.agent = .c1 ∧ enabled .c1 x → 0 < requestRank x → requestRank u < requestRank x) := by
  cases agent : x.env.turn.agent with
  | c0 =>
    obtain ⟨-, c1, -, -, cfg, -, loops, -⟩ := c0Step_quiet h.quiet.1 h.inv.host.sendingIffPending (h.of_c0 agent)
    exact ⟨(requestRank_congr (loops idle).2.1 c1 cfg).le, nofun⟩
  | irq =>
    have alarm := fireStep_alarmStep x
    rw [h.of_irq agent]
    exact ⟨(requestRank_congr alarm.chan alarm.c1 alarm.cfg).le, nofun⟩
  | c1 =>
    have runs := h.of_c1 agent
    have chan := (c1Step_motorStep runs).chan
    by_cases moves : enabled .c1 x
    · by_cases poll : x.c1.phase = .poll
      · rw [if_pos poll] at chan
        simp [Machine.requestRank, chan]
      · rw [if_neg poll] at chan
        have closer := stepsToPoll_c1Step h.inv moves runs poll
        by_cases empty : x.chan = none
        · simp [Machine.requestRank, chan, empty]
        · simp only [Machine.requestRank, chan, empty, if_false]
          exact ⟨closer.le, fun _ _ => closer⟩
    · cases (c1Step_of_not_enabled moves).symm.trans runs
      exact ⟨le_rfl, fun h => absurd h.2 moves⟩

/-! ## The motion -/

/-- The steps of C1 until the engine is at rest. -/
def motionRank (s : State) : Nat := if s.motor.mode = .stepping then stepsToGo s else 0

theorem motionRank_congr {x u : State} (motor : u.motor = x.motor) (c1 : u.c1 = x.c1) (cfg : u.cfg = x.cfg) :
    motionRank u = motionRank x := by
  rw [motionRank, stepsToGo, motor, c1, cfg, motionRank, stepsToGo]

/-- C1's next step when the engine is at rest. -/
def nextAtRest : C1Phase → C1Phase
  | .override => .imaging
  | .imaging => .poll
  | .poll => .motion
  | .motion => .override
  | .pulsing => .pulsing
  | .finalReport => .override

/-- What a step of C1 does with the engine at rest, the inputs inactive and `chan` empty. -/
structure RestStep (x u : State) : Prop where
  motor : u.motor = x.motor
  phase : enabled .c1 x → u.c1.phase = nextAtRest x.c1.phase
  fb : x.c1.phase ≠ .finalReport → u.fb = x.fb
  imaging : x.c1.phase ≠ .imaging → u.imaging = x.imaging ∧ u.alarms = x.alarms

theorem c1Step_restStep {x u : State} (inv : Inv x) (quiet : quietTurn x.env.turn) (idle : x.motor.mode = .idle)
    (noRequest : x.chan = none) (h : c1Step x = .next u) : RestStep x u := by
  cases phase : x.c1.phase with
  | override =>
    obtain ⟨-, inc, dec, -⟩ := quiet
    cases (c1Step_of_override_rests phase (by rw [inc, dec, overrideMotion_same])).symm.trans h
    exact ⟨rfl, fun _ => by rw [phase]; rfl, fun _ => rfl, fun _ => ⟨rfl, rfl⟩⟩
  | imaging =>
    cases (c1Step_of_imaging phase).symm.trans h
    have frame := imagingStep_frame x
    exact ⟨by rw [frame], fun _ => by rw [frame, phase]; rfl, fun _ => by rw [frame], fun h => absurd phase h⟩
  | poll =>
    cases ((c1Step_of_poll phase).trans (pollStep_of_chan_empty noRequest)).symm.trans h
    exact ⟨rfl, fun _ => by rw [phase]; rfl, fun _ => rfl, fun _ => ⟨rfl, rfl⟩⟩
  | motion =>
    cases ((c1Step_of_motion phase).trans
      (congrArg _ (motionStep_of_not_stepping (by rw [idle]; nofun)))).symm.trans h
    exact ⟨rfl, fun _ => by rw [phase]; rfl, fun _ => rfl, fun _ => ⟨rfl, rfl⟩⟩
  | pulsing =>
    have stepping := (inv.motor.pulsingInBatch phase).1
    rw [idle] at stepping
    cases stepping
  | finalReport =>
    cases fb : x.fb with
    | none =>
      cases ((c1Step_of_finalReport phase).trans (congrArg _ (finalReportStep_of_fb_empty fb))).symm.trans h
      exact ⟨rfl, fun _ => by rw [phase]; rfl, fun h => absurd phase h, fun _ => ⟨rfl, rfl⟩⟩
    | some w =>
      cases ((c1Step_of_finalReport phase).trans (congrArg _ (finalReportStep_of_fb_full fb))).symm.trans h
      exact ⟨rfl, fun moves => absurd ⟨phase, by rw [fb]; nofun⟩ moves, fun _ => rfl, fun _ => ⟨rfl, rfl⟩⟩

theorem QuietStep.motionRank {x u : State} (h : QuietStep x u) (noRequest : x.chan = none) :
    motionRank u ≤ motionRank x ∧
      (x.env.turn.agent = .c1 ∧ enabled .c1 x → 0 < motionRank x → motionRank u < motionRank x) := by
  cases agent : x.env.turn.agent with
  | c0 =>
    have host := c0Step_hostStep (h.of_c0 agent)
    obtain ⟨motor, c1, -⟩ := host.motorSide
    exact ⟨(motionRank_congr motor c1 host.cfg).le, nofun⟩
  | irq =>
    have alarm := fireStep_alarmStep x
    rw [h.of_irq agent]
    exact ⟨(motionRank_congr alarm.motor alarm.c1 alarm.cfg).le, nofun⟩
  | c1 =>
    have runs := h.of_c1 agent
    by_cases stepping : x.motor.mode = .stepping
    · have way : UnderWay x.motor.targetPosition x := ⟨h.inv, stepping, rfl, noRequest⟩
      have falls : Machine.motionRank u < Machine.motionRank x := by
        obtain ⟨still, closer⟩ | ⟨ended, -⟩ := way.c1Step ⟨h.quiet.2.1, h.quiet.2.2.1⟩ runs
        · simp only [Machine.motionRank, stepping, still.stepping, if_true]
          omega
        · simpa [Machine.motionRank, stepping, ended.idle] using way.stepsToGo_pos
      exact ⟨falls.le, fun _ _ => falls⟩
    · have idle : x.motor.mode = .idle := (h.inv.motor.moving_or_resting.resolve_left fun m => stepping m.stepping).idle
      have rest := c1Step_restStep h.inv h.quiet idle noRequest runs
      simp [Machine.motionRank, rest.motor, stepping]

/-! ## The final report -/

/-- Whether C1 still holds a report. -/
def reportRank (s : State) : Nat := if s.c1.phase = .finalReport then 1 else 0

theorem QuietStep.reportRank {x u : State} (h : QuietStep x u) (idle : x.motor.mode = .idle) (noRequest : x.chan = none) :
    reportRank u ≤ reportRank x ∧
      (x.env.turn.agent = .c1 ∧ enabled .c1 x → 0 < reportRank x → reportRank u < reportRank x) := by
  cases agent : x.env.turn.agent with
  | c0 =>
    obtain ⟨-, c1, -⟩ := (c0Step_hostStep (h.of_c0 agent)).motorSide
    rw [Machine.reportRank, c1]
    exact ⟨le_rfl, nofun⟩
  | irq =>
    rw [h.of_irq agent, Machine.reportRank, (fireStep_alarmStep x).c1]
    exact ⟨le_rfl, nofun⟩
  | c1 =>
    have runs := h.of_c1 agent
    by_cases moves : enabled .c1 x
    · have phase := (c1Step_restStep h.inv h.quiet idle noRequest runs).phase moves
      have left : u.c1.phase ≠ .finalReport := by
        rw [phase]
        cases x.c1.phase <;> nofun
      simp [Machine.reportRank, left]
    · cases (c1Step_of_not_enabled moves).symm.trans runs
      exact ⟨le_rfl, fun h => absurd h.2 moves⟩

/-! ## The session -/

/-- The steps that C1 takes at rest until its Imaging step is over. -/
def stepsToImaging : C1Phase → Nat
  | .imaging => 1
  | .override => 2
  | .motion => 3
  | .poll => 4
  | .pulsing => 4
  | .finalReport => 4

/-- How far a session is from its end with the switch inactive: after the pause alarm the opening click, after the exposure
alarm the closing one, which is the last; a click waits for C1 to come to its Imaging step. -/
def sessionRank (s : State) : Nat :=
  if s.imaging.started then
    if s.imaging.clickRequired then
      stepsToImaging s.c1.phase + if s.imaging.shutterOpen then 0 else 5
    else if s.imaging.shutterOpen then 5 else 10
  else 0

theorem sessionRank_congr {x u : State} (imaging : u.imaging = x.imaging) (c1 : u.c1 = x.c1) :
    sessionRank u = sessionRank x := by
  rw [sessionRank, imaging, c1, sessionRank]

theorem stepsToImaging_bounds (q : C1Phase) : 1 ≤ stepsToImaging q ∧ stepsToImaging q ≤ 4 := by
  cases q <;> decide

/-- The rank says whether a click is required. -/
theorem sessionRank_mod_five (s : State) :
    sessionRank s % 5 = 0 ↔ ¬ (s.imaging.started = true ∧ s.imaging.clickRequired = true) := by
  have bounds := stepsToImaging_bounds s.c1.phase
  unfold sessionRank
  split_ifs with started required shutter
  · exact iff_of_false (by omega) (not_not.2 ⟨started, required⟩)
  · exact iff_of_false (by omega) (not_not.2 ⟨started, required⟩)
  · exact iff_of_true rfl fun both => required both.2
  · exact iff_of_true rfl fun both => required both.2
  · exact iff_of_true rfl fun both => started both.1

/-- While no click is required the rank does not depend on C1. -/
theorem sessionRank_of_waiting {x u : State} (imaging : u.imaging = x.imaging) (noClick : x.imaging.clickRequired = false) :
    sessionRank u = sessionRank x := by
  simp [sessionRank, imaging, noClick]

/-- Firing leaves the rank or, when it is the session's alarm, lowers it. -/
theorem sessionRank_fireStep (x : State) : sessionRank (fireStep x) ≤ sessionRank x ∧
    (x.imaging.started = true → x.imaging.clickRequired = false → (fireStep x).imaging.clickRequired = true →
      sessionRank (fireStep x) < sessionRank x) := by
  have bounds := stepsToImaging_bounds x.c1.phase
  obtain ⟨-, c1, -, -, -, -, sameSession, sameShutter, keepsClick, -⟩ := fireStep_frame x
  cases started : x.imaging.started with
  | false => simp [sessionRank, sameSession, started]
  | true =>
    cases required : x.imaging.clickRequired with
    | true =>
      refine ⟨le_of_eq ?_, nofun⟩
      simp only [sessionRank, c1, sameSession, sameShutter, keepsClick required, required]
    | false =>
      by_cases fired : (fireStep x).imaging.clickRequired = true
      · have falls : sessionRank (fireStep x) < sessionRank x := by
          simp only [sessionRank, c1, sameSession, sameShutter, started, required, fired, if_true]
          cases x.imaging.shutterOpen <;> simp <;> omega
        exact ⟨falls.le, fun _ _ _ => falls⟩
      · refine ⟨le_of_eq ?_, fun _ _ h => absurd h fired⟩
        simp only [sessionRank, sameSession, sameShutter, started, required, fired, if_true, Bool.false_eq_true, if_false]

theorem sessionRank_c1Step {x u : State} (h : QuietStep x u) (idle : x.motor.mode = .idle) (noRequest : x.chan = none)
    (noFinal : x.c1.phase ≠ .finalReport) (runs : c1Step x = .next u) :
    sessionRank u ≤ sessionRank x ∧
      (x.imaging.started = true → x.imaging.clickRequired = true → sessionRank u < sessionRank x) := by
  have moves : enabled .c1 x := fun h => noFinal h.1
  have rest := c1Step_restStep h.inv h.quiet idle noRequest runs
  have noPulse : x.c1.phase ≠ .pulsing := by
    intro pulsing
    have stepping := (h.inv.motor.pulsingInBatch pulsing).1
    rw [idle] at stepping
    cases stepping
  have inSession : x.imaging.clickRequired = true → x.imaging.started = true ∧ x.cfg.hasIntervalometer = true := by
    intro required
    have started : x.imaging.started = true := by
      rw [← Bool.not_eq_false]
      intro noSession
      rw [(h.inv.imaging.noSession noSession).2.1] at required
      cases required
    refine ⟨started, ?_⟩
    rw [← Bool.not_eq_false]
    intro absent
    rw [h.inv.imaging.absent absent] at started
    cases started
  by_cases imaging : x.c1.phase = .imaging
  · cases (c1Step_of_imaging imaging).symm.trans runs
    obtain ⟨-, -, -, -, -, -, noClick, closing, opening⟩ :=
      imagingStep_quiet h.quiet.2.2.2 h.inv.pins.irLow inSession
    cases required : x.imaging.clickRequired with
    | false => exact ⟨(sessionRank_of_waiting (noClick required).1 required).le, nofun⟩
    | true =>
      have started := (inSession required).1
      have falls : sessionRank (imagingStep x) < sessionRank x := by
        cases shutter : x.imaging.shutterOpen with
        | true => simp [sessionRank, closing required shutter, started, required, shutter, imaging, stepsToImaging]
        | false => simp [sessionRank, opening required shutter, started, required, shutter, imaging, stepsToImaging]
      exact ⟨falls.le, fun _ _ => falls⟩
  · obtain ⟨same, -⟩ := rest.imaging imaging
    cases required : x.imaging.clickRequired with
    | false => exact ⟨(sessionRank_of_waiting same required).le, nofun⟩
    | true =>
      have closer : stepsToImaging u.c1.phase < stepsToImaging x.c1.phase := by
        rw [rest.phase moves]
        cases phase : x.c1.phase with
        | imaging => exact absurd phase imaging
        | pulsing => exact absurd phase noPulse
        | finalReport => exact absurd phase noFinal
        | _ => decide
      have falls : sessionRank u < sessionRank x := by
        simp only [sessionRank, same, (inSession required).1, required, if_true]
        omega
      exact ⟨falls.le, fun _ _ => falls⟩

theorem QuietStep.sessionRank {x u : State} (h : QuietStep x u) (idle : x.motor.mode = .idle) (noRequest : x.chan = none)
    (noFinal : x.c1.phase ≠ .finalReport) : sessionRank u ≤ sessionRank x := by
  cases agent : x.env.turn.agent with
  | c0 =>
    obtain ⟨-, c1, imaging, -⟩ := (c0Step_hostStep (h.of_c0 agent)).motorSide
    exact (sessionRank_congr imaging c1).le
  | irq => rw [h.of_irq agent]; exact (sessionRank_fireStep x).1
  | c1 => exact (sessionRank_c1Step h idle noRequest noFinal (h.of_c1 agent)).1

/-- A session that waits for no click has its alarm armed (46_intervalometer.md R328). -/
theorem ImagingInv.exists_session_alarm {x : State} (inv : ImagingInv x) (started : x.imaging.started = true)
    (noClick : x.imaging.clickRequired = false) : ∃ a ∈ x.alarms, a.kind ≠ .cooldown := by
  obtain ⟨required, -⟩ | ⟨-, one⟩ := inv.session started
  · rw [noClick] at required; cases required
  · obtain ⟨a, mem, kind⟩ := List.countP_pos_iff.1 (one ▸ Nat.one_pos : 0 < imagingAlarms x.alarms)
    exact ⟨a, mem, of_decide_eq_true kind⟩

/-- A session's alarm that is armed waits in a session, which then requires no click (46_intervalometer.md R328). -/
theorem ImagingInv.of_session_alarm {x : State} (inv : ImagingInv x) {a : Alarm} (mem : a ∈ x.alarms)
    (kind : a.kind ≠ .cooldown) : x.imaging.started = true ∧ x.imaging.clickRequired = false := by
  have armed : 0 < imagingAlarms x.alarms := List.countP_pos_iff.2 ⟨a, mem, decide_eq_true kind⟩
  cases started : x.imaging.started with
  | false => have := (inv.noSession started).2.2; omega
  | true =>
    obtain ⟨-, noneLeft⟩ | ⟨noClick, -⟩ := inv.session started
    · omega
    · exact ⟨rfl, noClick⟩

/-! ## The armed alarms -/

theorem QuietStep.alarms {x u : State} (h : QuietStep x u) (idle : x.motor.mode = .idle) (noRequest : x.chan = none)
    (noSession : x.imaging.started = false) : u.alarms.length ≤ x.alarms.length := by
  cases agent : x.env.turn.agent with
  | c0 =>
    obtain ⟨-, -, -, -, alarms, -⟩ := (c0Step_hostStep (h.of_c0 agent)).motorSide
    rw [alarms]
  | irq => rw [h.of_irq agent]; exact (fireStep_alarms_sublist x).length_le
  | c1 =>
    have runs := h.of_c1 agent
    by_cases imaging : x.c1.phase = .imaging
    · cases (c1Step_of_imaging imaging).symm.trans runs
      have rests : (armSession x.env.turn.imgSwitch x.imaging).clickRequired = false := by
        rw [h.quiet.2.2.2, armSession_of_switch_inactive, (h.inv.imaging.noSession noSession).2.1]
      rw [imagingStep_of_no_click rests]
    · rw [((c1Step_restStep h.inv h.quiet idle noRequest runs).imaging imaging).2]

end Sys2Proof.Machine
end

section
/-! The stages of a weakly fair run with inactive inputs (70_reset_and_hazards.md R454), each from the ones before it, and
the rest they end in. -/

namespace Sys2Proof.Machine

/-! ## The steps of a run -/

/-- Every state of a run meets the invariant (60_exceptions.md R402). -/
theorem inv_runUnder (turns : Nat → Turn) {s : State} (inv : Inv s) (m : Nat) : Inv (runUnder turns s m) := by
  induction m with
  | zero => exact inv
  | succ m ih =>
    obtain ⟨u, runs, next⟩ := runUnder_succ turns s m ih.noFault
    rw [next]
    exact inv_advance (inv_agentStep (inv_underTurn ih _) runs)

/-- A weakly fair run whose inputs are inactive from `last` on. -/
structure QuietRun (turns : Nat → Turn) (s : State) (last : Nat) : Prop where
  inv : Inv s
  fair : WeaklyFair turns s
  quiet : ∀ m, last ≤ m → quietTurn (turns m)

section
variable {turns : Nat → Turn} {s : State} {last : Nat}

theorem QuietRun.step (run : QuietRun turns s last) {m : Nat} (later : last ≤ m) :
    ∃ u, QuietStep (underTurn (turns m) (runUnder turns s m)) u ∧ runUnder turns s (m + 1) = advance u := by
  have inv := inv_runUnder turns run.inv m
  obtain ⟨u, runs, next⟩ := runUnder_succ turns s m inv.noFault
  exact ⟨u, ⟨inv_underTurn inv _, run.quiet m later, runs⟩, next⟩

/-- C0 is always enabled, so it moves again and again. -/
theorem QuietRun.c0_often (run : QuietRun turns s last) : ∃ᶠ m in Filter.atTop, (turns m).agent = .c0 :=
  Filter.frequently_atTop.2 fun n => (run.fair.agents .c0 n).imp fun _ ⟨later, moves⟩ =>
    ⟨later, moves.resolve_right fun disabled => disabled trivial⟩

/-- A rank of the registers: neither the turn nor its number is in it. -/
def IgnoresEnv (rank : State → Nat) : Prop := ∀ (x : State) (env : Env), rank { x with env := env } = rank x

theorem IgnoresEnv.underTurn {rank : State → Nat} (h : IgnoresEnv rank) (t : Turn) (x : State) :
    rank (underTurn t x) = rank x := h x _

theorem IgnoresEnv.advance {rank : State → Nat} (h : IgnoresEnv rank) (x : State) : rank (advance x) = rank x := h x _

/-- A rank that no quiet step raises, in the states that the run in the end keeps to, in the end never grows. -/
theorem QuietRun.eventually_shrinks (run : QuietRun turns s last) {rank : State → Nat} {given : State → Prop}
    (noEnv : IgnoresEnv rank) (before : ∀ᶠ m in Filter.atTop, given (underTurn (turns m) (runUnder turns s m)))
    (step : ∀ {x u : State}, QuietStep x u → given x → rank u ≤ rank x) :
    ∀ᶠ m in Filter.atTop, rank (runUnder turns s (m + 1)) ≤ rank (runUnder turns s m) := by
  filter_upwards [before, Filter.eventually_ge_atTop last] with m given later
  obtain ⟨u, quiet, next⟩ := run.step later
  have shrinks := step quiet given
  rwa [noEnv.underTurn, ← noEnv.advance, ← next] at shrinks

/-- A rank that moreover falls with every move of an agent that moves again and again is 0 for ever in the end. -/
theorem QuietRun.eventually_zero (run : QuietRun turns s last) {rank : State → Nat} {given moves : State → Prop}
    (noEnv : IgnoresEnv rank) (often : ∃ᶠ m in Filter.atTop, moves (underTurn (turns m) (runUnder turns s m)))
    (before : ∀ᶠ m in Filter.atTop, given (underTurn (turns m) (runUnder turns s m)))
    (step : ∀ {x u : State}, QuietStep x u → given x →
      rank u ≤ rank x ∧ (moves x → 0 < rank x → rank u < rank x)) :
    ∀ᶠ m in Filter.atTop, rank (runUnder turns s m) = 0 := by
  refine eventually_rank_zero_of_moves (f := fun m => rank (runUnder turns s m)) often ?_
  filter_upwards [before, Filter.eventually_ge_atTop last] with m given later
  obtain ⟨u, quiet, next⟩ := run.step later
  have falls := step quiet given
  rwa [noEnv.underTurn, ← noEnv.advance, ← next] at falls

/-! ## The request, the word in `chan`, the motion, the report -/

theorem pendingRank_eq_zero {x : State} (inv : HostInv x) : pendingRank x = 0 ↔ x.c0.pendingSend = none := by
  have room := inv.attemptsBounded
  unfold pendingRank
  split_ifs with none
  · exact ⟨fun _ => none, fun _ => rfl⟩
  · exact ⟨fun h => by omega, fun h => absurd h none⟩

theorem QuietRun.eventually_pendingSend (run : QuietRun turns s last) :
    ∀ᶠ m in Filter.atTop, (runUnder turns s m).c0.pendingSend = none := by
  have zero := run.eventually_zero (given := fun _ => True) (fun _ _ => rfl) run.c0_often
    (Filter.Eventually.of_forall fun _ => trivial) fun quiet _ => quiet.pendingRank
  exact zero.mono fun m => (pendingRank_eq_zero (inv_runUnder turns run.inv m).host).1

theorem feedbackRank_eq_zero {x : State} : feedbackRank x = 0 ↔ x.fb = none := by
  unfold feedbackRank
  split_ifs <;> simp_all

/-- Where C1 in the end puts nothing into `fb`, C0 leaves it empty. -/
theorem QuietRun.eventually_fb (run : QuietRun turns s last)
    (noPut : ∀ᶠ m in Filter.atTop, ∀ u, QuietStep (underTurn (turns m) (runUnder turns s m)) u →
      (turns m).agent = .c1 → u.fb = (runUnder turns s m).fb) :
    ∀ᶠ m in Filter.atTop, (runUnder turns s m).fb = none := by
  have zero := run.eventually_zero
    (given := fun x => x.c0.pendingSend = none ∧ ∀ u, QuietStep x u → x.env.turn.agent = .c1 → u.fb = x.fb)
    (fun _ _ => rfl) run.c0_often (run.eventually_pendingSend.and noPut)
    fun {_ u} quiet ⟨idle, noPut⟩ => quiet.feedbackRank idle (noPut u quiet)
  exact zero.mono fun _ => feedbackRank_eq_zero.1

/-- C1 moves again and again: if in the end it only waited for `fb`, C0 would empty `fb`. -/
theorem QuietRun.c1_often (run : QuietRun turns s last) :
    ∃ᶠ m in Filter.atTop, (turns m).agent = .c1 ∧ enabled .c1 (runUnder turns s m) := by
  by_contra rare
  rw [Filter.not_frequently] at rare
  have empty := run.eventually_fb <| rare.mono fun m noMove u quiet agent => by
    have waits : ¬ enabled .c1 (underTurn (turns m) (runUnder turns s m)) := fun moves => noMove ⟨agent, moves⟩
    cases (c1Step_of_not_enabled waits).symm.trans (quiet.of_c1 agent)
    rfl
  have fair : ∃ᶠ m in Filter.atTop, (turns m).agent = .c1 ∨ ¬ enabled .c1 (runUnder turns s m) :=
    Filter.frequently_atTop.2 (run.fair.agents .c1)
  obtain ⟨m, moves, noMove, empty⟩ := (fair.and_eventually (rare.and empty)).exists
  have able : enabled .c1 (runUnder turns s m) := fun waits => waits.2 empty
  exact noMove ⟨moves.resolve_right (not_not.2 able), able⟩

theorem requestRank_eq_zero {x : State} : requestRank x = 0 ↔ x.chan = none := by
  have := stepsToPoll_pos x
  unfold requestRank
  split_ifs with none
  · exact ⟨fun _ => none, fun _ => rfl⟩
  · exact ⟨fun h => by omega, fun h => absurd h none⟩

theorem QuietRun.eventually_chan (run : QuietRun turns s last) :
    ∀ᶠ m in Filter.atTop, (runUnder turns s m).chan = none := by
  have zero := run.eventually_zero (given := fun x => x.c0.pendingSend = none) (fun _ _ => rfl) run.c1_often
    run.eventually_pendingSend QuietStep.requestRank
  exact zero.mono fun _ => requestRank_eq_zero.1

theorem QuietRun.eventually_idle (run : QuietRun turns s last) :
    ∀ᶠ m in Filter.atTop, (runUnder turns s m).motor.mode = .idle := by
  have zero := run.eventually_zero (given := fun x => x.chan = none) (fun _ _ => rfl) run.c1_often
    run.eventually_chan QuietStep.motionRank
  filter_upwards [zero, run.eventually_chan] with m zero noRequest
  have inv := inv_runUnder turns run.inv m
  obtain moving | resting := inv.motor.moving_or_resting
  · have way : UnderWay _ (runUnder turns s m) := ⟨inv, moving.stepping, rfl, noRequest⟩
    rw [motionRank, if_pos moving.stepping] at zero
    exact absurd zero way.stepsToGo_pos.ne'
  · exact resting.idle

/-- The engine is at rest and nothing asks it to move. -/
def EngineRests (x : State) : Prop := x.motor.mode = .idle ∧ x.chan = none

theorem QuietRun.eventually_engineRests (run : QuietRun turns s last) :
    ∀ᶠ m in Filter.atTop, EngineRests (runUnder turns s m) := run.eventually_idle.and run.eventually_chan

theorem reportRank_eq_zero {x : State} : reportRank x = 0 ↔ x.c1.phase ≠ .finalReport := by
  simp [reportRank]

theorem QuietRun.eventually_reported (run : QuietRun turns s last) :
    ∀ᶠ m in Filter.atTop, (runUnder turns s m).c1.phase ≠ .finalReport := by
  have zero := run.eventually_zero (given := EngineRests) (fun _ _ => rfl) run.c1_often run.eventually_engineRests
    fun quiet ⟨idle, noRequest⟩ => quiet.reportRank idle noRequest
  exact zero.mono fun _ => reportRank_eq_zero.1

theorem QuietRun.eventually_fb_empty (run : QuietRun turns s last) :
    ∀ᶠ m in Filter.atTop, (runUnder turns s m).fb = none :=
  run.eventually_fb <| (run.eventually_engineRests.and run.eventually_reported).mono
    fun _ ⟨⟨idle, noRequest⟩, noReport⟩ _ quiet agent =>
      (c1Step_restStep quiet.inv quiet.quiet idle noRequest (quiet.of_c1 agent)).fb noReport

/-! ## The session and the alarms -/

/-- A session moves on: the click it requires is made in an Imaging step to come, the alarm it waits for fires. -/
theorem QuietRun.session_falls (run : QuietRun turns s last)
    {start : Nat} (later : last ≤ start) (rests : ∀ m, start ≤ m → EngineRests (runUnder turns s m))
    (reported : ∀ m, start ≤ m → (runUnder turns s m).c1.phase ≠ .finalReport) {m : Nat} (from_start : start ≤ m)
    (positive : 0 < sessionRank (runUnder turns s m)) :
    ∃ k, m ≤ k ∧ (sessionRank (runUnder turns s (k + 1)) < sessionRank (runUnder turns s k) ∨
      sessionRank (runUnder turns s k) ≠ sessionRank (runUnder turns s m)) := by
  have started : (runUnder turns s m).imaging.started = true := by
    by_contra noSession
    rw [sessionRank, if_neg noSession] at positive
    exact absurd positive (Nat.lt_irrefl 0)
  cases click : (runUnder turns s m).imaging.clickRequired with
  | true =>
    obtain ⟨k, hk, agent, -⟩ := Filter.frequently_atTop.1 run.c1_often m
    refine ⟨k, hk, or_iff_not_imp_right.2 fun same => ?_⟩
    have clickAtK := not_not.1 fun h => (sessionRank_mod_five _).not_left.2 ⟨started, click⟩
      (not_not.1 same ▸ (sessionRank_mod_five (runUnder turns s k)).2 h)
    obtain ⟨u, quiet, next⟩ := run.step (later.trans (from_start.trans hk))
    obtain ⟨idle, noRequest⟩ := rests k (from_start.trans hk)
    rw [next]
    exact (sessionRank_c1Step quiet idle noRequest (reported k (from_start.trans hk)) (quiet.of_c1 agent)).2
      clickAtK.1 clickAtK.2
  | false =>
    obtain ⟨a, mem, kind⟩ := (inv_runUnder turns run.inv m).imaging.exists_session_alarm started click
    obtain ⟨k, hk, agent, fires⟩ := run.fair.alarms m a mem
    obtain ⟨startedAtK, waiting⟩ :=
      (inv_runUnder turns run.inv k).imaging.of_session_alarm (List.mem_of_getElem? fires) kind
    obtain ⟨u, quiet, next⟩ := run.step (later.trans (from_start.trans hk))
    obtain ⟨-, -, -, -, -, -, -, -, -, -, fired⟩ := fireStep_frame (underTurn (turns k) (runUnder turns s k))
    refine ⟨k, hk, .inl ?_⟩
    rw [next, quiet.of_irq agent]
    exact (sessionRank_fireStep _).2 startedAtK waiting ((fired a fires).2 kind)

theorem sessionRank_eq_zero {x : State} : sessionRank x = 0 ↔ x.imaging.started = false := by
  have bounds := stepsToImaging_bounds x.c1.phase
  constructor
  · intro zero
    by_contra started
    rw [sessionRank, if_pos (eq_true_of_ne_false started)] at zero
    split_ifs at zero
    omega
  · intro noSession
    simp [sessionRank, noSession]

theorem QuietRun.eventually_noSession (run : QuietRun turns s last) :
    ∀ᶠ m in Filter.atTop, (runUnder turns s m).imaging.started = false := by
  have shrinks := run.eventually_shrinks (given := fun x => EngineRests x ∧ x.c1.phase ≠ .finalReport) (fun _ _ => rfl)
    (run.eventually_engineRests.and run.eventually_reported)
    fun quiet ⟨rests, reported⟩ => quiet.sessionRank rests.1 rests.2 reported
  obtain ⟨start, after⟩ := Filter.eventually_atTop.1
    ((run.eventually_engineRests.and run.eventually_reported).and (Filter.eventually_ge_atTop last))
  have falls := Filter.eventually_atTop.2 ⟨start, fun m hm => run.session_falls (after start le_rfl).2
    (fun k hk => (after k hk).1.1) (fun k hk => (after k hk).1.2) hm⟩
  exact (eventually_rank_zero (f := fun m => sessionRank (runUnder turns s m)) shrinks falls).mono
    fun m => sessionRank_eq_zero.1

theorem QuietRun.eventually_noAlarm (run : QuietRun turns s last) :
    ∀ᶠ m in Filter.atTop, (runUnder turns s m).alarms = [] := by
  have shrinks := run.eventually_shrinks (rank := fun x => x.alarms.length)
    (given := fun x => EngineRests x ∧ x.imaging.started = false) (fun _ _ => rfl)
    (run.eventually_engineRests.and run.eventually_noSession)
    fun quiet ⟨rests, noSession⟩ => quiet.alarms rests.1 rests.2 noSession
  have falls : ∀ᶠ m in Filter.atTop, 0 < (runUnder turns s m).alarms.length →
      ∃ k, m ≤ k ∧ ((runUnder turns s (k + 1)).alarms.length < (runUnder turns s k).alarms.length ∨
        (runUnder turns s k).alarms.length ≠ (runUnder turns s m).alarms.length) := by
    filter_upwards [Filter.eventually_ge_atTop last] with m later armed
    obtain ⟨a, mem⟩ := List.exists_mem_of_length_pos armed
    obtain ⟨k, hk, agent, fires⟩ := run.fair.alarms m a mem
    obtain ⟨u, quiet, next⟩ := run.step (later.trans hk)
    obtain ⟨-, -, -, -, -, -, -, -, -, -, fired⟩ := fireStep_frame (underTurn (turns k) (runUnder turns s k))
    refine ⟨k, hk, .inl ?_⟩
    rw [next, quiet.of_irq agent]
    exact (fired a fires).1
  exact (eventually_rank_zero (f := fun m => (runUnder turns s m).alarms.length) shrinks falls).mono
    fun m => List.eq_nil_of_length_eq_zero

/-! ## The codec -/

/-- With nothing delivered the codec stays (40_codec.md R130). -/
theorem QuietStep.codec {x u : State} (h : QuietStep x u) : u.c0.codec = x.c0.codec := by
  cases agent : x.env.turn.agent with
  | c0 =>
    obtain ⟨-, -, -, -, -, codec, -⟩ := c0Step_quiet h.quiet.1 h.inv.host.sendingIffPending (h.of_c0 agent)
    exact codec
  | c1 => rw [(c1Step_motorStep (h.of_c1 agent)).hostSide.1]
  | irq => rw [h.of_irq agent, (fireStep_alarmStep x).hostSide.1]

theorem QuietRun.codec (run : QuietRun turns s last) {m : Nat} (later : last ≤ m) :
    (runUnder turns s m).c0.codec = (runUnder turns s last).c0.codec := by
  induction m, later using Nat.le_induction with
  | base => rfl
  | succ m later ih =>
    obtain ⟨u, quiet, next⟩ := run.step later
    rw [next, ← ih]
    exact quiet.codec

/-! ## Rest -/

/-- A run with a complete last frame comes to rest, with the invariant saying what C0, C1 and the STOP pin are at. -/
theorem QuietRun.eventually_atRest (run : QuietRun turns s last)
    (complete : (runUnder turns s last).c0.codec.inFrame = false) :
    ∀ᶠ m in Filter.atTop, AtRest (runUnder turns s m) := by
  filter_upwards [Filter.eventually_ge_atTop last, run.eventually_pendingSend, run.eventually_engineRests,
    run.eventually_reported, run.eventually_fb_empty, run.eventually_noSession, run.eventually_noAlarm]
    with m later noPending ⟨idle, noRequest⟩ reported noFeedback noSession noAlarm
  have inv := inv_runUnder turns run.inv m
  refine ⟨fun sending => inv.host.sendingIffPending.1 sending noPending, noPending, ?_, noRequest, noFeedback,
    fun pulsing => ?_, reported, idle, noAlarm, noSession, fun motion => ?_⟩
  · rw [run.codec later, complete]
  · have stepping := (inv.motor.pulsingInBatch pulsing).1
    rw [idle] at stepping
    cases stepping
  · obtain stop | ⟨a, mem, -⟩ := inv.pins.stopComes idle motion
    · exact stop
    · rw [noAlarm] at mem
      cases mem

end

/-- At rest, and both loops at their beginning, is quiescent (70_reset_and_hazards.md R453). -/
theorem AtRest.quiescent {x : State} (rest : AtRest x) (getChar : x.c0.phase = .getChar)
    (override : x.c1.phase = .override) : Quiescent x := by
  obtain ⟨-, pending, frame, chan, fb, -, -, idle, alarms, noSession, -⟩ := rest
  exact ⟨getChar, pending, frame, chan, fb, override, idle, alarms, fun _ => noSession⟩

/-- Settles O60: the request, the word in `chan`, the motion, the report, the feedback, the session and the alarms end one
after the other, each by a rank that weak fairness brings to 0. -/
theorem fairRunsComeToRest : Obligations.FairRunsComeToRest := by
  intro s turns last inv fair quiet complete
  obtain ⟨n, rest⟩ := Filter.eventually_atTop.1 (QuietRun.eventually_atRest ⟨inv, fair, quiet⟩ complete)
  exact ⟨n, fun m later => ⟨rest m later, (rest m later).quiescent⟩⟩

end Sys2Proof.Machine
end
